-- ==== Sys2Proof/Word.lean ====
section
/-! DEFINITION. The two bit-vector types of the machine: a byte of memory or of an instruction, and the
64-bit word of the general registers, the code address registers, the pc and every address
(spec/10_state.md R30, R36, R40). -/

namespace Sys2Proof

/-- A byte: 8 bits (spec/00_scope.md R12). -/
abbrev Byte := BitVec 8

/-- A word: 64 bits (R12, R30); also an address (`ALEN` = 64, R36, decision D4). -/
abbrev Word := BitVec 64

/-- A general-register number: the 8-bit field of the instruction formats (R31, decision D1). -/
abbrev RegNum := BitVec 8

/-- A code-address-register number: the 4-bit fields `Bs4` and `Bd4` (R35). -/
abbrev CaNum := BitVec 4

/-- A flag-register number: the 3-bit fields `Flg3`, `Ft3`, `Fa3` (R43). -/
abbrev FlagNum := BitVec 3

end Sys2Proof
end

