-- ==== Sys2Proof/Machine/Flags.lean ====
section
/-! DEFINITION. The flags of a subtraction and the sixteen conditions (spec/40_compare_test.md R200, R201). -/

namespace Sys2Proof.Machine

/-- `flags_sub(a, b)`: the vector N:V:C:Z of `a - b` (R200). C is the borrow (decision D7). -/
def flagsSub (a b : Word) : BitVec 4 :=
  let r := a - b
  let n := r.msb
  let v := a.msb != b.msb && r.msb != a.msb
  let c := decide (a.toNat < b.toNat)
  let z := decide (r = 0#64)
  BitVec.ofBool n ++ BitVec.ofBool v ++ BitVec.ofBool c ++ BitVec.ofBool z

/-- N, bit 3 of a flag vector (R44). -/
def flagN (f : BitVec 4) : Bool := f.getLsbD 3

/-- V, bit 2 (R44). -/
def flagV (f : BitVec 4) : Bool := f.getLsbD 2

/-- C, bit 1 (R44). -/
def flagC (f : BitVec 4) : Bool := f.getLsbD 1

/-- Z, bit 0 (R44). -/
def flagZ (f : BitVec 4) : Bool := f.getLsbD 0

/-- The sixteen conditions, in the order of their numbers 0 to F (R201). -/
inductive Cond where
  | eq | ne | vs | vc | mi | pl | ra | nv | gt | le | ge | lt | hi | ls | hs | lo
  deriving DecidableEq, Repr

/-- `cond(cc, F)` (R201). -/
def condHolds (c : Cond) (f : BitVec 4) : Bool :=
  match c with
  | .eq => flagZ f
  | .ne => !flagZ f
  | .vs => flagV f
  | .vc => !flagV f
  | .mi => flagN f
  | .pl => !flagN f
  | .ra => true
  | .nv => false
  | .gt => !flagZ f && flagN f == flagV f
  | .le => flagZ f || flagN f != flagV f
  | .ge => flagN f == flagV f
  | .lt => flagN f != flagV f
  | .hi => !flagC f && !flagZ f
  | .ls => flagC f || flagZ f
  | .hs => !flagC f
  | .lo => flagC f

/-- Signed overflow of the sum `a + b` (R256). -/
def addOverflows (a b : Word) : Bool := a.msb == b.msb && (a + b).msb != a.msb

end Sys2Proof.Machine
end

