-- ==== Sys2Proof/Config.lean ====
section
/-! DEFINITION. What is fixed for one machine and one run: the parameters of spec/00_scope.md R7. Those the
launch supplies as data are the record `Launch`, which State carries and no step changes; those that are
functions the spec leaves OPEN are opaque constants of `Config`, which no proof can evaluate. -/

namespace Sys2Proof.Machine

/-- The synchronous exceptions (spec/60_exceptions.md R520). The spec gives them names and no numbers. -/
inductive Exn where
  /-- "The Break exception": raised by BRK, always (R521). -/
  | brk
  /-- "an overflow exception": raised by ADD or ADD# under TRAPV on signed overflow (R522). -/
  | overflow
  /-- Raised by fetch and decode on an encoding the source assigns to no instruction (R523, R144, R145). -/
  | illegalInstruction
  /-- Raised by a data access of 2, 4 or 8 bytes at an address that is no multiple of its width (R87, R88). -/
  | misaligned
  /-- Raised by an access, data or fetch, to an address that does not exist (R93, R86). -/
  | accessFault
  deriving DecidableEq, Repr

/-- `TRAP_MODE` (R7, R525). -/
inductive TrapMode where
  /-- The spec's own value: the run ends in `Trapped(E, info)` (decision D29). -/
  | terminal
  /-- "A model that wants to continue into a handler" (R525): the pc becomes `TRAP_TARGET`. -/
  | handler
  deriving DecidableEq, Repr

/-- `PCREL_BASE` (spec/43_branch_jump.md R320): what "PC" is in relative address formation. -/
inductive PcrelBase where
  /-- The address of the byte after the instruction: the spec's own value (decision D9). -/
  | nextInsn
  /-- The address of the instruction itself: the other value R320 names. -/
  | thisInsn
  deriving DecidableEq, Repr

/-- `MISALIGNED` (spec/20_memory.md R87): a data access at an address that is no multiple of its width. -/
inductive MisalignedMode where
  /-- It raises `Misaligned`: the spec's own value (decision D12). -/
  | fault
  /-- It is made byte by byte: the other value R87 names. CAS raises `Misaligned` all the same (R88). -/
  | split
  deriving DecidableEq, Repr

/-- A run of `size` byte addresses from `base` up. -/
structure Region where
  base : Nat
  size : Nat
  deriving DecidableEq, Repr

/-- A hardware-interrupt source of `IRQ_SOURCES` (spec/60_exceptions.md R530). `maskable` says whether IM
holds it off: the source's "maskable" implies that other interrupts exist (R530, R531). -/
structure IrqSource where
  number : Nat
  maskable : Bool
  deriving DecidableEq, Repr

/-- The parameters a launch supplies (R7, R544, R571). No instruction and no step changes one of them. -/
structure Launch where
  /-- `SP_REG`: the general register that PUSH, POP and PUSHC use as SP; OPEN, in 1..255 (R33, D3). -/
  spReg : RegNum
  /-- The set of byte addresses that exist: the domain of `MEM`; OPEN (R93, D40). -/
  present : List Region
  /-- The bytes of the program text, "fixed at launch": a store to one of them is refused (R98, D34). -/
  text : List Region
  /-- `TRAP_MODE` (R525, D29). -/
  trapMode : TrapMode
  /-- `PCREL_BASE` (R320, D9). -/
  pcrelBase : PcrelBase
  /-- `MISALIGNED` (R87, D12). -/
  misalignedMode : MisalignedMode
  /-- `IRQ_SOURCES` (R530, D30). -/
  irqSources : List IrqSource
  /-- Whether the launch supplies `IRQ_TARGET`; without it a taken interrupt is refused (R532). -/
  irqTargetSupplied : Bool
  deriving DecidableEq, Repr

end Sys2Proof.Machine

namespace Sys2Proof.Config

/-- `TRAP_TARGET(cause, ca12, mem)` (R525): the handler address of an exception, for a machine that
continues after a trap. OPEN: the spec gives no table format and "a model must not invent" one (R527), so
this has no body (log entry 6). -/
opaque trapTarget : Machine.Exn → Word → List Host.Cell → Word

/-- `IRQ_TARGET(src, ca12, mem)` (R532): the handler address of an interrupt. OPEN, so it has no body (log entry 7). -/
opaque irqTarget : Machine.IrqSource → Word → List Host.Cell → Word

/-- `CAUSE_CODE(exception)` (R520): the numeric code of an exception. OPEN, and read by no rule of the spec (log entry 8). -/
opaque causeCode : Machine.Exn → Nat

/-- `RESET_PC`, OPEN in the spec (R570). DESIGN CHOICE, unsafe: 1000h, where every single-instruction vector of
spec/95_test_vectors.md starts (log entry 1). -/
def resetPc : Word := 0x1000#64

/-- SR after reset, unspecified in the spec (R570). DESIGN CHOICE, unsafe: 00008000h, the SR of the common start
state of spec/95_test_vectors.md, IM set (log entry 2). -/
def resetSr : BitVec 32 := 0x00008000#32

/-- The launch of `State.reset`. DESIGN CHOICE, unsafe, for the OPEN members (log entries 3, 4, 5): SP is R63 as in
spec/95_test_vectors.md, every one of the 2^64 addresses exists, no byte is declared program text. The other members
have the values R7 gives them. -/
def resetLaunch : Machine.Launch where
  spReg := 63#8
  present := [⟨0, 2 ^ 64⟩]
  text := []
  trapMode := .terminal
  pcrelBase := .nextInsn
  misalignedMode := .fault
  irqSources := []
  irqTargetSupplied := false

end Sys2Proof.Config
end

