-- ==== Sys2Proof/Machine/State.lean ====
section
/-! DEFINITION. The state of the machine (spec/10_state.md), the two ways a step ends other than in a next state
(spec/60_exceptions.md R525, R529), and the state after reset (spec/70_reset_and_hazards.md R570). -/

namespace Sys2Proof.Machine

/-- Memory as (address, byte) pairs in one canonical form: see `Memory.wf` in Sys2Proof/Machine/Memory.lean (R57, R80). -/
abbrev Memory := List Host.Cell

/-- A pending immediate prefix `(n, P)`, `P` of `8 n` bits (R53): one constructor per IMMn. -/
inductive ImmPrefix where
  | imm8 (p : BitVec 8)
  | imm16 (p : BitVec 16)
  | imm24 (p : BitVec 24)
  | imm32 (p : BitVec 32)
  | imm40 (p : BitVec 40)
  | imm48 (p : BitVec 48)
  | imm56 (p : BitVec 56)
  | imm64 (p : BitVec 64)
  deriving DecidableEq, Repr

/-- The whole state. Registers the spec hard-wires have no storage: R0 and CA0 read as zero and CA15 is the pc
(R32, R37, R38); reads and writes go through the accessors of Sys2Proof/Machine/Ops.lean. -/
structure State where
  /-- R1 .. R255; R`i` stands at index `i - 1` (R30, R31, R32). -/
  gpr : Vector Word 255
  /-- CA1 .. CA14; CA`i` stands at index `i - 1` (R35, R36, R37, R38). CA13 is the exceptioned pc, CA14 the
  interrupted pc, CA12 the exception table pointer (R39). -/
  ca : Vector Word 14
  /-- CA15, the program counter: the address of the instruction to be executed (R40). -/
  pc : Word
  /-- f0 .. f7, each the four bits N:V:C:Z, N the most significant (R43, R44). -/
  flags : Vector (BitVec 4) 8
  /-- The status register: IM bit 15, FXE bit 12, CPL bits 3..0, the backup half 31..16 (R46). -/
  sr : BitVec 32
  /-- The pending immediate prefix `ipfx` (R53). -/
  ipfx : Option ImmPrefix
  /-- The pending overflow-trap prefix `tpfx` (R54). -/
  tpfx : Bool
  /-- The bytes of memory that differ from `Memory.unlisted` (R57, R80). -/
  mem : Memory
  /-- The interrupt inputs `irq_pending`, in the order in which the environment wants them taken (R56). -/
  irqPending : List IrqSource
  /-- The parameters the launch supplied (R7); no step changes them. -/
  launch : Launch
  deriving DecidableEq, Repr

/-- Why the machine stopped with a fault. -/
inductive Fault where
  /-- `Trapped(E, info)` (R525): an exception was raised and `TRAP_MODE` is terminal. `final` is the final state: CA13
  holds the raising instruction's address, no prefix is pending, and everything else, the pc too, is as the last
  completed instruction left it. Raised by `raise` in Sys2Proof/Machine/Ops.lean only, for every exception of `Exn`;
  `info` is the pc for Break, Overflow and IllegalInstruction, the address for Misaligned and AccessFault (R520). Safe:
  the hardware goes on to a handler of which the source says nothing (D29). -/
  | trapped (e : Exn) (info : Word) (final : State)
  deriving DecidableEq, Repr

/-- Why a step has no meaning: "the hardware does something, but nothing says what" (R529). Each is safe: nothing
about the state after can be proved. -/
inductive Refusal where
  /-- An instruction that has no meaning in this model yet: raised by `exec`'s own arms only. Safe. -/
  | notModelled (mnemonic : String)
  /-- An immediate prefix is pending before an instruction that accepts none (R152, R493). Safe. -/
  | immPrefixNotAccepted
  /-- An IMMn while an immediate prefix is pending (R484, R493). Safe. -/
  | secondImmPrefix
  /-- Prefix and field together exceed 64 bits (R131). Safe. -/
  | prefixTooWide
  /-- A TRAPV is pending before an instruction that is not ADD or ADD# (R483, R493). Safe. -/
  | trapvNotAccepted
  /-- A TRAPV while a TRAPV is pending (R493). Safe. -/
  | secondTrapv
  /-- Division or remainder by zero, or signed -2^63 by -1: `DIV_CORNER` (R257). Safe. -/
  | divisionCorner
  /-- PUSH of the register that is SP (R448). Safe. -/
  | pushOfSp
  /-- POP into the register that is SP (R448). Safe. -/
  | popOfSp
  /-- A store to a byte of the program text (R98). Safe. -/
  | storeToText
  /-- CINV: "CINV not described" (R439). Safe. -/
  | cinvNotDescribed
  /-- SWS: "SWS not described" (R440). Safe. -/
  | swsNotDescribed
  /-- CINVx: "CINVx not described" (R441). Safe. -/
  | cinvxNotDescribed
  /-- An interrupt was taken and the launch supplies no `IRQ_TARGET` (R532). Safe. -/
  | interruptWithoutTarget
  deriving DecidableEq, Repr

/-- The outcome of an instruction or of a step. -/
abbrev Out := Host.Outcome State Fault Refusal

/-- The machine right after reset (R570). The spec gives the values of R0, CA0 (hard-wired), `ipfx`, `tpfx` and
`irq_pending`; every other value is named in the assumption log (entries 1 to 5, 9 to 12) and is unsafe to lean on. -/
def State.reset : State where
  gpr := Vector.replicate 255 0#64
  ca := Vector.replicate 14 0#64
  pc := Config.resetPc
  flags := Vector.replicate 8 0#4
  sr := Config.resetSr
  ipfx := none
  tpfx := false
  mem := []
  irqPending := []
  launch := Config.resetLaunch

end Sys2Proof.Machine
end

