-- ==== Sys2Proof/Machine/Memory.lean ====
section
/-! DEFINITION. Memory as a list of cells in canonical form, its two operations on one byte, and little-endian access
to several bytes (spec/20_memory.md R80, R83 to R85, R100). Which addresses exist is the launch's (R93); the checks
that go before an access are in Sys2Proof/Machine/Ops.lean. -/

namespace Sys2Proof.Machine

/-- What an address that no cell lists reads as. The spec leaves the initial contents of memory to the launch (R93,
D40). DESIGN CHOICE, unsafe: 00h (log entry 10). -/
def Memory.unlisted : Byte := 0#8

/-- The byte at an address. -/
def Memory.read : Memory → Nat → Byte
  | [], _ => Memory.unlisted
  | (b, w) :: m, a => if a = b then w else Memory.read m a

/-- Put the cell `(a, v)` before `m`, unless `v` is what an unlisted address reads as. -/
def Memory.cons (a : Nat) (v : Byte) (m : Memory) : Memory :=
  if v = Memory.unlisted then m else (a, v) :: m

/-- Write one byte, keeping the cells sorted and none equal to what an unlisted address reads as. -/
def Memory.write : Memory → Nat → Byte → Memory
  | [], a, v => Memory.cons a v []
  | (b, w) :: m, a, v =>
    if a < b then Memory.cons a v ((b, w) :: m)
    else if a = b then Memory.cons a v m
    else (b, w) :: Memory.write m a v

/-- The cells of `m` rise strictly from address `lo` up, lie in the 64-bit address space, and none holds what an
unlisted address reads as. -/
def Memory.wfFrom : Nat → Memory → Bool
  | _, [] => true
  | lo, (a, v) :: m => lo ≤ a && a < 2 ^ 64 && v != Memory.unlisted && Memory.wfFrom (a + 1) m

/-- The canonical form. -/
def Memory.wf (m : Memory) : Bool := Memory.wfFrom 0 m

/-- The `n` bytes at `a`, `a + 1`, … as one number, the first the least significant (R83, R84); addresses wrap (R100). -/
def Memory.readLE (m : Memory) (a : Word) : (n : Nat) → BitVec (8 * n)
  | 0 => 0#0
  | n + 1 => Memory.readLE m (a + 1#64) n ++ Memory.read m a.toNat

/-- Write the `n` bytes of `v` at `a`, `a + 1`, …, the least significant first (R83, R85); addresses wrap (R100). -/
def Memory.writeLE (m : Memory) (a : Word) : (n : Nat) → BitVec (8 * n) → Memory
  | 0, _ => m
  | n + 1, v => Memory.writeLE (Memory.write m a.toNat (v.extractLsb' 0 8)) (a + 1#64) n (v.extractLsb' 8 (8 * n))

end Sys2Proof.Machine
end

