-- ==== Sys2Proof/Machine/Ops.lean ====
section
/-! DEFINITION. The named operations on the state that the meanings share: register access, the end of an instruction,
taking an exception and an interrupt, the admission of prefixes, and checked access to memory. -/

namespace Sys2Proof.Machine

/-! ### Registers -/

/-- `x[i]`: R0 reads as zero (R32). -/
def State.reg (s : State) (r : RegNum) : Word :=
  if h : r = 0#8 then 0#64
  else s.gpr[r.toNat - 1]'(by have := r.isLt; have : r.toNat ≠ 0 := fun e => h (BitVec.eq_of_toNat_eq e); omega)

/-- `x[i] <- v`: a write to R0 is dropped (R32). -/
def State.setReg (s : State) (r : RegNum) (v : Word) : State :=
  if h : r = 0#8 then s
  else { s with
    gpr := s.gpr.set (r.toNat - 1) v
      (by have := r.isLt; have : r.toNat ≠ 0 := fun e => h (BitVec.eq_of_toNat_eq e); omega) }

/-- `SP`: the general register `SP_REG` (R33). -/
def State.sp (s : State) : Word := s.reg s.launch.spReg

/-- `SP <- v`. -/
def State.setSp (s : State) (v : Word) : State := s.setReg s.launch.spReg v

/-- What relative address formation takes for the PC in an instruction of `len` bytes: `PCREL_BASE` (R38, R320). -/
def State.pcrel (s : State) (len : Word) : Word :=
  match s.launch.pcrelBase with
  | .nextInsn => s.pc + len
  | .thisInsn => s.pc

/-- `ca[i]` as an instruction of `len` bytes reads it: CA0 is zero and CA15 is `PCREL_BASE` (R37, R38). -/
def State.caReg (s : State) (len : Word) (i : CaNum) : Word :=
  if h0 : i = 0#4 then 0#64
  else if h15 : i = 15#4 then s.pcrel len
  else s.ca[i.toNat - 1]'(by
    have := i.isLt
    have : i.toNat ≠ 0 := fun e => h0 (BitVec.eq_of_toNat_eq e)
    have : i.toNat ≠ 15 := fun e => h15 (BitVec.eq_of_toNat_eq e)
    omega)

/-- `ca[i] <- v`: a write to CA0 or CA15 is dropped (R37, R38). -/
def State.setCa (s : State) (i : CaNum) (v : Word) : State :=
  if h0 : i = 0#4 then s
  else if h15 : i = 15#4 then s
  else { s with
    ca := s.ca.set (i.toNat - 1) v (by
      have := i.isLt
      have : i.toNat ≠ 0 := fun e => h0 (BitVec.eq_of_toNat_eq e)
      have : i.toNat ≠ 15 := fun e => h15 (BitVec.eq_of_toNat_eq e)
      omega) }

/-- `f[i]`, the four bits N:V:C:Z (R44). -/
def State.flag (s : State) (i : FlagNum) : BitVec 4 := s.flags[i.toNat]'i.isLt

/-- `f[i] <- v`. -/
def State.setFlag (s : State) (i : FlagNum) (v : BitVec 4) : State :=
  { s with flags := s.flags.set i.toNat v i.isLt }

/-- `sr.IM`, bit 15 (R47). -/
def State.im (s : State) : Bool := s.sr.getLsbD 15

/-- The byte of memory at an address. -/
def State.byteAt (s : State) (a : Word) : Byte := Memory.read s.mem a.toNat

/-! ### The end of an instruction -/

/-- The end of an instruction that is no prefix: the next instruction is at `target` and no prefix is pending (R60
step 6, R493). -/
def State.jump (s : State) (target : Word) : State := { s with pc := target, ipfx := none, tpfx := false }

/-- The end of an instruction of `len` bytes that does not write the pc: `pc <- npc` (R41, R60 step 6). -/
def State.finish (s : State) (len : Word) : State := s.jump (s.pc + len)

/-- The end of an instruction of `len` bytes whose one effect is to write a general register. -/
def State.result (s : State) (rt : RegNum) (v : Word) (len : Word) : State := (s.setReg rt v).finish len

/-! ### Exceptions and interrupts -/

/-- What exception entry writes: CA13 takes the raising instruction's address and no prefix stays pending (R525, R526). -/
def State.enterException (s : State) : State := { s.setCa 13#4 s.pc with ipfx := none, tpfx := false }

/-- `raise E(info)` (R525). `s` is the state the raising instruction found, so nothing it would have written is written
(R528). With `TRAP_MODE` terminal the run ends in `Trapped(E, info)`; a machine that continues goes to the OPEN
`TRAP_TARGET` (log entry 6). -/
def raise (e : Exn) (info : Word) (s : State) : Out :=
  match s.launch.trapMode with
  | .terminal => .fault (.trapped e info s.enterException)
  | .handler => .next { s.enterException with pc := Config.trapTarget e (s.caReg 0#64 12#4) s.mem }

/-- SR on interrupt entry: the lower half copied to the upper half, then IM set (R51, R532). -/
def srOnInterrupt (sr : BitVec 32) : BitVec 32 :=
  sr.extractLsb' 0 16 ++ (sr.extractLsb' 0 16 ||| 0x8000#16)

/-- `take_interrupt(src)` (R532). The pending input stays as the environment holds it (log entry 7). -/
def takeInterrupt (src : IrqSource) (s : State) : Out :=
  if s.launch.irqTargetSupplied then
    .next { s.setCa 14#4 s.pc with
      sr := srOnInterrupt s.sr
      pc := Config.irqTarget src (s.caReg 0#64 12#4) s.mem }
  else .refused .interruptWithoutTarget

/-- Is the source one of `IRQ_SOURCES`, and not held off by IM (R530, R531)? -/
def State.admitsIrq (s : State) (src : IrqSource) : Bool :=
  s.launch.irqSources.contains src && (!src.maskable || !s.im)

/-- The interrupt a step takes before its instruction: the first pending one that is admitted, and none while a prefix is
pending (R60 step 1, R531, R533). -/
def State.irqToTake (s : State) : Option IrqSource :=
  if s.ipfx.isNone && !s.tpfx then s.irqPending.find? s.admitsIrq else none

/-! ### Prefix admission (R60 step 4, R493) -/

/-- The instruction accepts no immediate prefix (R152). -/
def noImmPrefix (s : State) (k : Out) : Out :=
  match s.ipfx with
  | some _ => .refused .immPrefixNotAccepted
  | none => k

/-- The instruction accepts no TRAPV prefix (R483). -/
def noTrapv (s : State) (k : Out) : Out := if s.tpfx then .refused .trapvNotAccepted else k

/-- The instruction accepts no prefix. -/
def noPrefixes (s : State) (k : Out) : Out := noImmPrefix s (noTrapv s k)

/-! ### Checked access to memory -/

/-- A byte address lies in a region. -/
def Region.has (r : Region) (a : Word) : Bool := r.base ≤ a.toNat && a.toNat < r.base + r.size

/-- Does the byte address exist: is it in `MEM` (R93)? -/
def State.present (s : State) (a : Word) : Bool := s.launch.present.any (·.has a)

/-- Is the byte part of the program text (R98)? -/
def State.isText (s : State) (a : Word) : Bool := s.launch.text.any (·.has a)

/-- Does every one of the `n` byte addresses from `a` up satisfy `p`? Addresses wrap (R100). -/
def allBytes (p : Word → Bool) (a : Word) : Nat → Bool
  | 0 => true
  | n + 1 => p a && allBytes p (a + 1#64) n

/-- Does one of the `n` byte addresses from `a` up satisfy `p`? -/
def anyByte (p : Word → Bool) (a : Word) : Nat → Bool
  | 0 => false
  | n + 1 => p a || anyByte p (a + 1#64) n

/-- The checks before a data access of `n` bytes (R84, R85): alignment first, if `MISALIGNED` is fault (R87), then the
presence of every byte. -/
def State.accessCheck (s : State) (a : Word) (n : Nat) : Option Exn :=
  if s.launch.misalignedMode = .fault ∧ a.toNat % n ≠ 0 then some .misaligned
  else if allBytes s.present a n then none
  else some .accessFault

/-- `MemRead(a, n)` (R84), and then `k` of the value read. -/
def memRead (s : State) (a : Word) (n : Nat) (k : BitVec (8 * n) → Out) : Out :=
  match s.accessCheck a n with
  | some e => raise e a s
  | none => k (Memory.readLE s.mem a n)

/-- `MemWrite(a, n, v)` (R85), and then `k` of the state with the bytes written. A store to a byte of the program text is
refused (R98). -/
def memWrite (s : State) (a : Word) (n : Nat) (v : BitVec (8 * n)) (k : State → Out) : Out :=
  match s.accessCheck a n with
  | some e => raise e a s
  | none =>
    if anyByte s.isText a n then .refused .storeToText
    else k { s with mem := Memory.writeLE s.mem a n v }

end Sys2Proof.Machine
end

