-- ==== Sys2Proof/Machine/Operands.lean ====
section
/-! DEFINITION. The operand forms: the constant K with a pending immediate prefix (spec/30_encoding.md R131), the two
addressing modes (spec/44_load.md R390, R391), branch targets (spec/43_branch_jump.md R320) and shift amounts
(spec/42_shift_rotate.md R290). -/

namespace Sys2Proof.Machine

/-- The number of prefix bits, 8 n (R53, R139). -/
def ImmPrefix.bits : ImmPrefix → Nat
  | .imm8 _ => 8
  | .imm16 _ => 16
  | .imm24 _ => 24
  | .imm32 _ => 32
  | .imm40 _ => 40
  | .imm48 _ => 48
  | .imm56 _ => 56
  | .imm64 _ => 64

/-- The prefix value P (R53, R139). -/
def ImmPrefix.value : (p : ImmPrefix) → BitVec p.bits
  | .imm8 p => p
  | .imm16 p => p
  | .imm24 p => p
  | .imm32 p => p
  | .imm40 p => p
  | .imm48 p => p
  | .imm56 p => p
  | .imm64 p => p

/-- The constant K of an instruction whose own field is `f` (R131): `sext_64(F)`, 0 for an empty field, without a
prefix; `sext_64(P : F)` with one; `none` where prefix and field exceed 64 bits. -/
def immConst {w : Nat} (ipfx : Option ImmPrefix) (f : BitVec w) : Option Word :=
  match ipfx with
  | none => some (f.signExtend 64)
  | some p => if p.bits + w ≤ 64 then some ((p.value ++ f).signExtend 64) else none

/-- Go on with the constant K of the field `f`, or refuse the prefix as too wide (R131). -/
def withConst {w : Nat} (f : BitVec w) (s : State) (k : Word → Out) : Out :=
  match immConst s.ipfx f with
  | some c => k c
  | none => .refused .prefixTooWide

/-- Register indirect with displacement, no TRAPV accepted: `ea = x[Ra] + K` (R390, R430). -/
def withDisp (ra : RegNum) (disp : BitVec 8) (s : State) (k : Word → Out) : Out :=
  noTrapv s (withConst disp s fun c => k (s.reg ra + c))

/-- Register-register, no TRAPV accepted: `ea = x[Ra] + x[Rb] + K`, K from a prefix alone (R391, R430). -/
def withIndex (ra rb : RegNum) (s : State) (k : Word → Out) : Out :=
  noTrapv s (withConst (0#0) s fun c => k (s.reg ra + s.reg rb + c))

/-- The target of a relative branch of `len` bytes (R320). -/
def State.branchTarget {w : Nat} (s : State) (len : Word) (disp : BitVec w) : Word :=
  s.pcrel len + disp.signExtend 64

/-- The shift amount of a register form: the low 6 bits of x[Rb] (R290, decision D17). -/
def shiftAmount (v : Word) : Nat := (v.extractLsb' 0 6).toNat

end Sys2Proof.Machine
end

