-- ==== Sys2Proof/Machine/Arith.lean ====
section
/-! DEFINITION. The arithmetic and logical instructions and the sign extensions (spec/41_arith_logic.md). None writes a flag
register (R45); a write to R0 is dropped (R32). -/

namespace Sys2Proof.Machine

/-- The low `n` bits of x[Ra], sign-extended, to Rt; no prefix is accepted (R230 to R232). -/
def signExtendOp (n : Nat) (rt ra : RegNum) (s : State) : Out :=
  noPrefixes s (.next (s.result rt (((s.reg ra).extractLsb' 0 n).signExtend 64) 4#64))

/-- SXB (R230). -/
def execSxb (rt ra : RegNum) (s : State) : Out := signExtendOp 8 rt ra s

/-- SXC (R231). -/
def execSxc (rt ra : RegNum) (s : State) : Out := signExtendOp 16 rt ra s

/-- SXH (R232). -/
def execSxh (rt ra : RegNum) (s : State) : Out := signExtendOp 32 rt ra s

/-- The sum of `a` and `b` to Rt; under a TRAPV prefix a signed overflow raises Overflow instead and Rt is not written
(R233, R234, R522). -/
def addOp (rt : RegNum) (a b : Word) (len : Word) (s : State) : Out :=
  if s.tpfx && addOverflows a b then raise .overflow s.pc s else .next (s.result rt (a + b) len)

/-- ADD, register form: it accepts TRAPV and no immediate prefix (R233). -/
def execAddR (rt ra rb : RegNum) (s : State) : Out := noImmPrefix s (addOp rt (s.reg ra) (s.reg rb) 5#64 s)

/-- AND, register form (R235). -/
def execAndR (rt ra rb : RegNum) (s : State) : Out :=
  noPrefixes s (.next (s.result rt (s.reg ra &&& s.reg rb) 5#64))

/-- The RI template: x[Rt] from x[Ra] and the constant K; no TRAPV accepted (R258, R259). -/
def riOp (f : Word → Word → Word) (rt ra : RegNum) (imm : BitVec 8) (s : State) : Out :=
  noTrapv s (withConst imm s fun c => .next (s.result rt (f (s.reg ra) c) 4#64))

/-- The RI template of a division or remainder, with the operands on which the spec refuses it: `DIV_CORNER` (R257). -/
def divOp (corner : Word → Word → Bool) (f : Word → Word → Word) (rt ra : RegNum) (imm : BitVec 8) (s : State) : Out :=
  noTrapv s (withConst imm s fun c =>
    if corner (s.reg ra) c then .refused .divisionCorner else .next (s.result rt (f (s.reg ra) c) 4#64))

/-- ADD# accepts both prefixes (R234). -/
def execAddI (rt ra : RegNum) (imm : BitVec 8) (s : State) : Out :=
  withConst imm s fun c => addOp rt (s.reg ra) c 4#64 s

/-- SUB# (R237). -/
def execSubI (rt ra : RegNum) (imm : BitVec 8) (s : State) : Out := riOp (fun a c => a - c) rt ra imm s

/-- MUL#: the low 64 bits of the product (R238). -/
def execMulI (rt ra : RegNum) (imm : BitVec 8) (s : State) : Out := riOp (fun a c => a * c) rt ra imm s

/-- The signed quotient truncated toward zero (R257, R239). -/
def signedQuotient (a b : Word) : Word := BitVec.ofInt 64 (a.toInt.tdiv b.toInt)

/-- The signed remainder, of the dividend's sign: `s(a) - q * s(b)` (R257, R240). -/
def signedRemainder (a b : Word) : Word := BitVec.ofInt 64 (a.toInt - a.toInt.tdiv b.toInt * b.toInt)

/-- The operands on which signed division has no meaning: b = 0, and -2^63 by -1 (R239). -/
def signedCorner (a b : Word) : Bool := b == 0#64 || (a == 0x8000000000000000#64 && b == 0xFFFFFFFFFFFFFFFF#64)

/-- The unsigned quotient (R244). -/
def unsignedQuotient (a b : Word) : Word := BitVec.ofNat 64 (a.toNat / b.toNat)

/-- The unsigned remainder (R245). -/
def unsignedRemainder (a b : Word) : Word := BitVec.ofNat 64 (a.toNat % b.toNat)

/-- The operands on which unsigned division has no meaning: b = 0 (R244). -/
def unsignedCorner (_ b : Word) : Bool := b == 0#64

/-- DIV# (R239). -/
def execDivI (rt ra : RegNum) (imm : BitVec 8) (s : State) : Out := divOp signedCorner signedQuotient rt ra imm s

/-- REM# (R240). -/
def execRemI (rt ra : RegNum) (imm : BitVec 8) (s : State) : Out := divOp signedCorner signedRemainder rt ra imm s

/-- AND#: K is sign-extended like every other constant (R236, decision D13). -/
def execAndI (rt ra : RegNum) (imm : BitVec 8) (s : State) : Out := riOp (fun a c => a &&& c) rt ra imm s

/-- OR# (R241). -/
def execOrI (rt ra : RegNum) (imm : BitVec 8) (s : State) : Out := riOp (fun a c => a ||| c) rt ra imm s

/-- EOR# (R242). -/
def execEorI (rt ra : RegNum) (imm : BitVec 8) (s : State) : Out := riOp (fun a c => a ^^^ c) rt ra imm s

/-- MULU#: the low 64 bits of the product, as MUL# (R243). -/
def execMuluI (rt ra : RegNum) (imm : BitVec 8) (s : State) : Out := riOp (fun a c => a * c) rt ra imm s

/-- DIVU#: K read as unsigned (R244). -/
def execDivuI (rt ra : RegNum) (imm : BitVec 8) (s : State) : Out := divOp unsignedCorner unsignedQuotient rt ra imm s

/-- REMU# (R245). -/
def execRemuI (rt ra : RegNum) (imm : BitVec 8) (s : State) : Out := divOp unsignedCorner unsignedRemainder rt ra imm s

end Sys2Proof.Machine
end

