-- ==== Sys2Proof/Machine/Branch.lean ====
section
/-! DEFINITION. The branches (spec/43_branch_jump.md): 16 short and 16 long conditional branches on a flag register, four
branches on a register's value, and decrement-and-branch. None accepts a prefix, writes a flag or raises. -/

namespace Sys2Proof.Machine

/-- Where a branch of `len` bytes goes: to its target if it is taken, else to the next instruction (R320). -/
def State.branchPc {w : Nat} (s : State) (taken : Bool) (len : Word) (disp : BitVec w) : Word :=
  if taken then s.branchTarget len disp else s.pc + len

/-- Bcc, 2 bytes (R321). -/
def shortBranch (c : Cond) (fa : FlagNum) (disp : BitVec 5) (s : State) : Out :=
  noPrefixes s (.next (s.jump (s.branchPc (condHolds c (s.flag fa)) 2#64 disp)))

/-- LBcc, 3 bytes (R338). -/
def longBranch (c : Cond) (fa : FlagNum) (disp : BitVec 13) (s : State) : Out :=
  noPrefixes s (.next (s.jump (s.branchPc (condHolds c (s.flag fa)) 3#64 disp)))

/-- A branch on the value of x[Ra], 3 bytes (R354 to R357). -/
def regBranch (p : Word → Bool) (ra : RegNum) (disp : BitVec 8) (s : State) : Out :=
  noPrefixes s (.next (s.jump (s.branchPc (p (s.reg ra)) 3#64 disp)))

/-- BEQ (R322). -/
def execBeq (fa : FlagNum) (disp : BitVec 5) (s : State) : Out := shortBranch .eq fa disp s

/-- BNE (R323). -/
def execBne (fa : FlagNum) (disp : BitVec 5) (s : State) : Out := shortBranch .ne fa disp s

/-- BVS (R324). -/
def execBvs (fa : FlagNum) (disp : BitVec 5) (s : State) : Out := shortBranch .vs fa disp s

/-- BVC (R325). -/
def execBvc (fa : FlagNum) (disp : BitVec 5) (s : State) : Out := shortBranch .vc fa disp s

/-- BMI (R326). -/
def execBmi (fa : FlagNum) (disp : BitVec 5) (s : State) : Out := shortBranch .mi fa disp s

/-- BPL (R327). -/
def execBpl (fa : FlagNum) (disp : BitVec 5) (s : State) : Out := shortBranch .pl fa disp s

/-- BRA (R328). -/
def execBra (fa : FlagNum) (disp : BitVec 5) (s : State) : Out := shortBranch .ra fa disp s

/-- BNV (R329). -/
def execBnv (fa : FlagNum) (disp : BitVec 5) (s : State) : Out := shortBranch .nv fa disp s

/-- BGT (R330). -/
def execBgt (fa : FlagNum) (disp : BitVec 5) (s : State) : Out := shortBranch .gt fa disp s

/-- BLE (R331). -/
def execBle (fa : FlagNum) (disp : BitVec 5) (s : State) : Out := shortBranch .le fa disp s

/-- BGE (R332). -/
def execBge (fa : FlagNum) (disp : BitVec 5) (s : State) : Out := shortBranch .ge fa disp s

/-- BLT (R333). -/
def execBlt (fa : FlagNum) (disp : BitVec 5) (s : State) : Out := shortBranch .lt fa disp s

/-- BHI (R334). -/
def execBhi (fa : FlagNum) (disp : BitVec 5) (s : State) : Out := shortBranch .hi fa disp s

/-- BLS (R335). -/
def execBls (fa : FlagNum) (disp : BitVec 5) (s : State) : Out := shortBranch .ls fa disp s

/-- BHS (R336). -/
def execBhs (fa : FlagNum) (disp : BitVec 5) (s : State) : Out := shortBranch .hs fa disp s

/-- BLO (R337). -/
def execBlo (fa : FlagNum) (disp : BitVec 5) (s : State) : Out := shortBranch .lo fa disp s

/-- LBEQ (R339). -/
def execLbeq (fa : FlagNum) (disp : BitVec 13) (s : State) : Out := longBranch .eq fa disp s

/-- LBNE (R340). -/
def execLbne (fa : FlagNum) (disp : BitVec 13) (s : State) : Out := longBranch .ne fa disp s

/-- LBVS (R341). -/
def execLbvs (fa : FlagNum) (disp : BitVec 13) (s : State) : Out := longBranch .vs fa disp s

/-- LBVC (R342). -/
def execLbvc (fa : FlagNum) (disp : BitVec 13) (s : State) : Out := longBranch .vc fa disp s

/-- LBMI (R343). -/
def execLbmi (fa : FlagNum) (disp : BitVec 13) (s : State) : Out := longBranch .mi fa disp s

/-- LBPL (R344). -/
def execLbpl (fa : FlagNum) (disp : BitVec 13) (s : State) : Out := longBranch .pl fa disp s

/-- LBRA (R345). -/
def execLbra (fa : FlagNum) (disp : BitVec 13) (s : State) : Out := longBranch .ra fa disp s

/-- LBNV (R346). -/
def execLbnv (fa : FlagNum) (disp : BitVec 13) (s : State) : Out := longBranch .nv fa disp s

/-- LBGT (R347). -/
def execLbgt (fa : FlagNum) (disp : BitVec 13) (s : State) : Out := longBranch .gt fa disp s

/-- LBLE (R348). -/
def execLble (fa : FlagNum) (disp : BitVec 13) (s : State) : Out := longBranch .le fa disp s

/-- LBGE (R349). -/
def execLbge (fa : FlagNum) (disp : BitVec 13) (s : State) : Out := longBranch .ge fa disp s

/-- LBLT (R350). -/
def execLblt (fa : FlagNum) (disp : BitVec 13) (s : State) : Out := longBranch .lt fa disp s

/-- LBHI (R351). -/
def execLbhi (fa : FlagNum) (disp : BitVec 13) (s : State) : Out := longBranch .hi fa disp s

/-- LBLS (R352). -/
def execLbls (fa : FlagNum) (disp : BitVec 13) (s : State) : Out := longBranch .ls fa disp s

/-- LBHS (R353). -/
def execLbhs (fa : FlagNum) (disp : BitVec 13) (s : State) : Out := longBranch .hs fa disp s

/-- LBLO (R364). -/
def execLblo (fa : FlagNum) (disp : BitVec 13) (s : State) : Out := longBranch .lo fa disp s

/-- BRZ: taken if x[Ra] is zero (R354). -/
def execBrz (ra : RegNum) (disp : BitVec 8) (s : State) : Out := regBranch (fun v => v == 0#64) ra disp s

/-- BRNZ: taken if x[Ra] is not zero (R355). -/
def execBrnz (ra : RegNum) (disp : BitVec 8) (s : State) : Out := regBranch (fun v => v != 0#64) ra disp s

/-- BRMI: taken if x[Ra] is bit 63 set (R356). -/
def execBrmi (ra : RegNum) (disp : BitVec 8) (s : State) : Out := regBranch (fun v => v.msb) ra disp s

/-- BRPL: taken if x[Ra] is bit 63 clear (R357). -/
def execBrpl (ra : RegNum) (disp : BitVec 8) (s : State) : Out := regBranch (fun v => !v.msb) ra disp s

/-- DBNZ: decrement x[Ra], and branch if the new value is not zero (R358). -/
def execDbnz (ra : RegNum) (disp : BitVec 8) (s : State) : Out :=
  noPrefixes s (.next ((s.setReg ra (s.reg ra - 1#64)).jump (s.branchPc (s.reg ra - 1#64 != 0#64) 3#64 disp)))

end Sys2Proof.Machine
end

