-- ==== Sys2Proof/Machine/Compare.lean ====
section
/-! DEFINITION. The compare and test instructions (spec/40_compare_test.md). They accept no prefix and are the only
writers of a flag register (R45). -/

namespace Sys2Proof.Machine

/-- Write the flags of `a - b` to one flag register; an instruction of `len` bytes (R202 to R204). -/
def compareOp (ft : FlagNum) (a b : Word) (len : Word) (s : State) : Out :=
  noPrefixes s (.next ((s.setFlag ft (flagsSub a b)).finish len))

/-- TST (R202). -/
def execTst (ft : FlagNum) (ra : RegNum) (s : State) : Out := compareOp ft (s.reg ra) 0#64 2#64 s

/-- CMPI: the immediate is sign-extended and takes no prefix (R204, decisions D13, D15). -/
def execCmpi (ft : FlagNum) (ra : RegNum) (imm : BitVec 8) (s : State) : Out :=
  compareOp ft (s.reg ra) (imm.signExtend 64) 3#64 s

/-- CMP (R203). -/
def execCmp (ft : FlagNum) (ra rb : RegNum) (s : State) : Out := compareOp ft (s.reg ra) (s.reg rb) 3#64 s

end Sys2Proof.Machine
end

