-- ==== Sys2Proof/Machine/Jump.lean ====
section
/-! DEFINITION. Jump and link through a code address register, and return (spec/43_branch_jump.md R359 to R361). The base is
read before the link is written; the link value is the address after the instruction. -/

namespace Sys2Proof.Machine

/-- Jump to `target` and leave the address after the instruction of `len` bytes in CA`bd` (R359, R360). -/
def jumpAndLink (bd : CaNum) (target : Word) (len : Word) (s : State) : Out :=
  noPrefixes s (.next ((s.setCa bd (s.pc + len)).jump target))

/-- JALR (R359). -/
def execJalr (bd bs : CaNum) (s : State) : Out := jumpAndLink bd (s.caReg 2#64 bs) 2#64 s

/-- JALR24: the displacement is sign-extended and counts bytes (R360). -/
def execJalr24 (bd bs : CaNum) (disp : BitVec 24) (s : State) : Out :=
  jumpAndLink bd (s.caReg 5#64 bs + disp.signExtend 64) 5#64 s

/-- RET: `pc <- ca[1]` (R361). -/
def execRet (s : State) : Out := noPrefixes s (.next (s.jump (s.caReg 1#64 1#4)))

end Sys2Proof.Machine
end

