-- ==== Sys2Proof/Machine/Load.lean ====
section
/-! DEFINITION. The loads and the load-effective-address instructions (spec/44_load.md). A load into R0 still reads memory
and may raise; its value is dropped (R32). -/

namespace Sys2Proof.Machine

/-- A load of `n` bytes that sign-extends (R392). -/
def loadSigned (n : Nat) (rt : RegNum) (s : State) (ea : Word) : Out :=
  memRead s ea n fun v => .next (s.result rt (v.signExtend 64) 4#64)

/-- A load of `n` bytes that zero-extends (R392). -/
def loadUnsigned (n : Nat) (rt : RegNum) (s : State) (ea : Word) : Out :=
  memRead s ea n fun v => .next (s.result rt (v.setWidth 64) 4#64)

/-- The effective address itself to Rt; memory is not accessed (R400, R408). -/
def loadAddress (rt : RegNum) (s : State) (ea : Word) : Out := .next (s.result rt ea 4#64)

/-- LB (R393). -/
def execLb (rt ra : RegNum) (disp : BitVec 8) (s : State) : Out := withDisp ra disp s (loadSigned 1 rt s)

/-- LBU (R394). -/
def execLbu (rt ra : RegNum) (disp : BitVec 8) (s : State) : Out := withDisp ra disp s (loadUnsigned 1 rt s)

/-- LC (R395). -/
def execLc (rt ra : RegNum) (disp : BitVec 8) (s : State) : Out := withDisp ra disp s (loadSigned 2 rt s)

/-- LCU (R396). -/
def execLcu (rt ra : RegNum) (disp : BitVec 8) (s : State) : Out := withDisp ra disp s (loadUnsigned 2 rt s)

/-- LH (R397). -/
def execLh (rt ra : RegNum) (disp : BitVec 8) (s : State) : Out := withDisp ra disp s (loadSigned 4 rt s)

/-- LHU (R398). -/
def execLhu (rt ra : RegNum) (disp : BitVec 8) (s : State) : Out := withDisp ra disp s (loadUnsigned 4 rt s)

/-- LW (R399). -/
def execLw (rt ra : RegNum) (disp : BitVec 8) (s : State) : Out := withDisp ra disp s (loadSigned 8 rt s)

/-- LEA (R400). -/
def execLea (rt ra : RegNum) (disp : BitVec 8) (s : State) : Out := withDisp ra disp s (loadAddress rt s)

/-- LBx (R401). -/
def execLbx (rt ra rb : RegNum) (s : State) : Out := withIndex ra rb s (loadSigned 1 rt s)

/-- LBUx (R402). -/
def execLbux (rt ra rb : RegNum) (s : State) : Out := withIndex ra rb s (loadUnsigned 1 rt s)

/-- LCx (R403). -/
def execLcx (rt ra rb : RegNum) (s : State) : Out := withIndex ra rb s (loadSigned 2 rt s)

/-- LCUx (R404). -/
def execLcux (rt ra rb : RegNum) (s : State) : Out := withIndex ra rb s (loadUnsigned 2 rt s)

/-- LHx (R405). -/
def execLhx (rt ra rb : RegNum) (s : State) : Out := withIndex ra rb s (loadSigned 4 rt s)

/-- LHUx (R406). -/
def execLhux (rt ra rb : RegNum) (s : State) : Out := withIndex ra rb s (loadUnsigned 4 rt s)

/-- LWx (R407). -/
def execLwx (rt ra rb : RegNum) (s : State) : Out := withIndex ra rb s (loadSigned 8 rt s)

/-- LEAx (R408). -/
def execLeax (rt ra rb : RegNum) (s : State) : Out := withIndex ra rb s (loadAddress rt s)

end Sys2Proof.Machine
end

