-- ==== Sys2Proof/Machine/SetOps.lean ====
section
/-! DEFINITION. The set instructions of opcode row 3x (spec/41_arith_logic.md R246 to R255, R259). The comparison is made
inside the instruction: no flag register is read or written. -/

namespace Sys2Proof.Machine

/-- The value a set instruction writes: `SET_TRUE` = 1 or 0 (R246, decision D19). -/
def setValue (b : Bool) : Word := if b then 1#64 else 0#64

/-- SEQ#: set if equal (R246). -/
def execSeqI (rt ra : RegNum) (imm : BitVec 8) (s : State) : Out :=
  riOp (fun a c => setValue (condHolds .eq (flagsSub a c))) rt ra imm s

/-- SNE#: set if not equal (R247). -/
def execSneI (rt ra : RegNum) (imm : BitVec 8) (s : State) : Out :=
  riOp (fun a c => setValue (a != c)) rt ra imm s

/-- SGT#: set if greater, signed (R248). -/
def execSgtI (rt ra : RegNum) (imm : BitVec 8) (s : State) : Out :=
  riOp (fun a c => setValue (decide (c.toInt < a.toInt))) rt ra imm s

/-- SLE#: set if less or equal, signed (R249). -/
def execSleI (rt ra : RegNum) (imm : BitVec 8) (s : State) : Out :=
  riOp (fun a c => setValue (decide (a.toInt ≤ c.toInt))) rt ra imm s

/-- SGE#: set if greater or equal, signed (R250). -/
def execSgeI (rt ra : RegNum) (imm : BitVec 8) (s : State) : Out :=
  riOp (fun a c => setValue (decide (c.toInt ≤ a.toInt))) rt ra imm s

/-- SLT#: set if less, signed (R251). -/
def execSltI (rt ra : RegNum) (imm : BitVec 8) (s : State) : Out :=
  riOp (fun a c => setValue (decide (a.toInt < c.toInt))) rt ra imm s

/-- SHI#: set if higher, unsigned (R252). -/
def execShiI (rt ra : RegNum) (imm : BitVec 8) (s : State) : Out :=
  riOp (fun a c => setValue (decide (c.toNat < a.toNat))) rt ra imm s

/-- SLS#: set if lower or same, unsigned (R253). -/
def execSlsI (rt ra : RegNum) (imm : BitVec 8) (s : State) : Out :=
  riOp (fun a c => setValue (decide (a.toNat ≤ c.toNat))) rt ra imm s

/-- SHS#: set if higher or same, unsigned (R254). -/
def execShsI (rt ra : RegNum) (imm : BitVec 8) (s : State) : Out :=
  riOp (fun a c => setValue (decide (c.toNat ≤ a.toNat))) rt ra imm s

/-- SLO#: set if lower, unsigned (R255). -/
def execSloI (rt ra : RegNum) (imm : BitVec 8) (s : State) : Out :=
  riOp (fun a c => setValue (decide (a.toNat < c.toNat))) rt ra imm s

end Sys2Proof.Machine
end

