-- ==== Sys2Proof/Machine/Shift.lean ====
section
/-! DEFINITION. The shifts and rotates (spec/42_shift_rotate.md). They accept no prefix, write no flag and raise nothing. -/

namespace Sys2Proof.Machine

/-- A register form: the amount is the low 6 bits of x[Rb] (R290). -/
def shiftReg (f : Word → Nat → Word) (rt ra rb : RegNum) (s : State) : Out :=
  noPrefixes s (.next (s.result rt (f (s.reg ra) (shiftAmount (s.reg rb))) 5#64))

/-- An immediate form: the amount is Imm6 (R290). -/
def shiftImm (f : Word → Nat → Word) (rt ra : RegNum) (imm : BitVec 6) (s : State) : Out :=
  noPrefixes s (.next (s.result rt (f (s.reg ra) imm.toNat) 5#64))

/-- Shift left, zeros entering at the bottom (R291). -/
def shl (v : Word) (n : Nat) : Word := v <<< n

/-- Rotate left (R293): the top `n` bits come in at the bottom. For n = 0 the second operand shifts everything out. -/
def rol (v : Word) (n : Nat) : Word := v <<< n ||| v >>> (64 - n)

/-- Logical shift right, zeros entering at the top (R295). -/
def shr (v : Word) (n : Nat) : Word := v >>> n

/-- Rotate right (R297): the low `n` bits come in at the top. -/
def ror (v : Word) (n : Nat) : Word := v >>> n ||| v <<< (64 - n)

/-- Arithmetic shift right, copies of bit 63 entering at the top (R299). -/
def asr (v : Word) (n : Nat) : Word := v.sshiftRight n

/-- SHL, register form (R291). -/
def execShlR (rt ra rb : RegNum) (s : State) : Out := shiftReg shl rt ra rb s

/-- SHL, immediate form (R292). -/
def execShlI (rt ra : RegNum) (imm : BitVec 6) (s : State) : Out := shiftImm shl rt ra imm s

/-- ROL, register form (R293). -/
def execRolR (rt ra rb : RegNum) (s : State) : Out := shiftReg rol rt ra rb s

/-- ROL, immediate form (R294). -/
def execRolI (rt ra : RegNum) (imm : BitVec 6) (s : State) : Out := shiftImm rol rt ra imm s

/-- SHR, register form (R295). -/
def execShrR (rt ra rb : RegNum) (s : State) : Out := shiftReg shr rt ra rb s

/-- SHR, immediate form (R296). -/
def execShrI (rt ra : RegNum) (imm : BitVec 6) (s : State) : Out := shiftImm shr rt ra imm s

/-- ROR, register form (R297). -/
def execRorR (rt ra rb : RegNum) (s : State) : Out := shiftReg ror rt ra rb s

/-- ROR, immediate form (R298). -/
def execRorI (rt ra : RegNum) (imm : BitVec 6) (s : State) : Out := shiftImm ror rt ra imm s

/-- ASR, register form (R299). -/
def execAsrR (rt ra rb : RegNum) (s : State) : Out := shiftReg asr rt ra rb s

/-- ASR, immediate form (R300). -/
def execAsrI (rt ra : RegNum) (imm : BitVec 6) (s : State) : Out := shiftImm asr rt ra imm s

end Sys2Proof.Machine
end

