-- ==== Sys2Proof/Machine/Stack.lean ====
section
/-! DEFINITION. The stack instructions and compare-and-swap (spec/45_store_stack_atomic.md R445 to R450). Every access is
checked before SP or a register is written. -/

namespace Sys2Proof.Machine

/-- Store `v` at SP - 8 and move SP there; an instruction of `len` bytes (R445, R446). -/
def pushWord (v : Word) (len : Word) (s : State) : Out :=
  memWrite s (s.sp - 8#64) 8 v fun s' => .next ((s'.setSp (s.sp - 8#64)).finish len)

/-- PUSH; of the register that is SP it is refused (R445, R448). -/
def execPush (ra : RegNum) (s : State) : Out :=
  noPrefixes s (if ra = s.launch.spReg then .refused .pushOfSp else pushWord (s.reg ra) 2#64 s)

/-- PUSHC: the constant may be extended by a prefix (R446). -/
def execPushc (imm : BitVec 16) (s : State) : Out :=
  noTrapv s (withConst imm s fun c => pushWord c 3#64 s)

/-- POP; into the register that is SP it is refused, and with Rt = 0 memory is not read (R447, R448). -/
def execPop (rt : RegNum) (s : State) : Out :=
  noPrefixes s (
    if rt = s.launch.spReg then .refused .popOfSp
    else if rt = 0#8 then .next ((s.setSp (s.sp + 8#64)).finish 2#64)
    else memRead s s.sp 8 fun v => .next (((s.setReg rt v).setSp (s.sp + 8#64)).finish 2#64))

/-- CAS: the address must be a multiple of 8 whatever `MISALIGNED` is; the read and the conditional write are this one step
(R450, R88, R91). -/
def execCas (rt rb rc ra : RegNum) (s : State) : Out :=
  noTrapv s (withConst (0#0) s fun c =>
    if (s.reg ra + c).toNat % 8 ≠ 0 then raise .misaligned (s.reg ra + c) s
    else memRead s (s.reg ra + c) 8 fun old =>
      if old = s.reg rb then
        memWrite s (s.reg ra + c) 8 (s.reg rc) fun s' => .next (s'.result rt old 5#64)
      else .next (s.result rt old 5#64))

end Sys2Proof.Machine
end

