-- ==== Sys2Proof/Machine/Store.lean ====
section
/-! DEFINITION. The stores (spec/45_store_stack_atomic.md R430 to R438) and the three store-row opcodes the source only
names (R439 to R441). A store of n bytes writes the low n bytes of x[Rs] and changes no register. -/

namespace Sys2Proof.Machine

/-- A store of the low `n` bytes of x[Rs] (R430). -/
def store (n : Nat) (rs : RegNum) (s : State) (ea : Word) : Out :=
  memWrite s ea n ((s.reg rs).extractLsb' 0 (8 * n)) fun s' => .next (s'.finish 4#64)

/-- SB (R431). -/
def execSb (rs ra : RegNum) (disp : BitVec 8) (s : State) : Out := withDisp ra disp s (store 1 rs s)

/-- SBx (R435). -/
def execSbx (rs ra rb : RegNum) (s : State) : Out := withIndex ra rb s (store 1 rs s)

/-- SC (R432). -/
def execSc (rs ra : RegNum) (disp : BitVec 8) (s : State) : Out := withDisp ra disp s (store 2 rs s)

/-- SCx (R436). -/
def execScx (rs ra rb : RegNum) (s : State) : Out := withIndex ra rb s (store 2 rs s)

/-- SH (R433). -/
def execSh (rs ra : RegNum) (disp : BitVec 8) (s : State) : Out := withDisp ra disp s (store 4 rs s)

/-- SHx (R437). -/
def execShx (rs ra rb : RegNum) (s : State) : Out := withIndex ra rb s (store 4 rs s)

/-- SW (R434). -/
def execSw (rs ra : RegNum) (disp : BitVec 8) (s : State) : Out := withDisp ra disp s (store 8 rs s)

/-- SWx (R438). -/
def execSwx (rs ra rb : RegNum) (s : State) : Out := withIndex ra rb s (store 8 rs s)

/-- CINV: the spec has its name and opcode only and refuses it (R439). -/
def execCinv (s : State) : Out := noPrefixes s (.refused .cinvNotDescribed)

/-- SWS: the spec has its name and opcode only and refuses it (R440). -/
def execSws (s : State) : Out := noPrefixes s (.refused .swsNotDescribed)

/-- CINVx: the spec has its name and opcode only and refuses it (R441). -/
def execCinvx (s : State) : Out := noPrefixes s (.refused .cinvxNotDescribed)

end Sys2Proof.Machine
end

