-- ==== Sys2Proof/Machine/System.lean ====
section
/-! DEFINITION. The system instructions and the prefixes (spec/46_prefix_system.md). -/

namespace Sys2Proof.Machine

/-- BRK: raises Break (R480). -/
def execBrk (s : State) : Out := noPrefixes s (raise .brk s.pc s)

/-- NOP (R481). -/
def execNop (s : State) : Out := noPrefixes s (.next (s.finish 1#64))

/-- CLI: `sr[15] <- 0`, no other bit of SR changes (R482). -/
def execCli (s : State) : Out := noPrefixes s (.next ({ s with sr := s.sr &&& 0xFFFF7FFF#32 }.finish 1#64))

/-- TRAPV: `tpfx <- true`; a second one is refused; an immediate prefix may be pending and stays so (R483, R493). -/
def execTrapv (s : State) : Out :=
  if s.tpfx then .refused .secondTrapv else .next { s with tpfx := true, pc := s.pc + 1#64 }

/-- IMMn: `ipfx <- (n, P)`; a second one is refused; a TRAPV may be pending and stays so (R484, R493). -/
def immPrefixOp (p : ImmPrefix) (len : Word) (s : State) : Out :=
  match s.ipfx with
  | some _ => .refused .secondImmPrefix
  | none => .next { s with ipfx := some p, pc := s.pc + len }

/-- IMM8 (R485). -/
def execImm8 (p : BitVec 8) (s : State) : Out := immPrefixOp (.imm8 p) 2#64 s

/-- IMM16 (R486). -/
def execImm16 (p : BitVec 16) (s : State) : Out := immPrefixOp (.imm16 p) 3#64 s

/-- IMM24 (R487). -/
def execImm24 (p : BitVec 24) (s : State) : Out := immPrefixOp (.imm24 p) 4#64 s

/-- IMM32 (R488). -/
def execImm32 (p : BitVec 32) (s : State) : Out := immPrefixOp (.imm32 p) 5#64 s

/-- IMM40 (R489). -/
def execImm40 (p : BitVec 40) (s : State) : Out := immPrefixOp (.imm40 p) 6#64 s

/-- IMM48 (R490). -/
def execImm48 (p : BitVec 48) (s : State) : Out := immPrefixOp (.imm48 p) 7#64 s

/-- IMM56 (R491). -/
def execImm56 (p : BitVec 56) (s : State) : Out := immPrefixOp (.imm56 p) 8#64 s

/-- IMM64 (R492). -/
def execImm64 (p : BitVec 64) (s : State) : Out := immPrefixOp (.imm64 p) 9#64 s

end Sys2Proof.Machine
end

