-- ==== Sys2Proof/Syntax.lean ====
section
/-! DEFINITION. The instruction set as syntax: one constructor per row of spec/opcode_table.json. Every operand
has exactly the width the encoding gives its field, so no constructor term is out of range; what a sequence of
instructions must obey (the immediate and TRAPV prefixes) is checked in Sys2Proof.WellFormed. Operands stand in the order
of the spec's assembler syntax (spec/30_encoding.md R149), target first; the base register of a load or store
comes before its displacement or index. -/

namespace Sys2Proof

/-- An instruction (spec/30_encoding.md R121, R140 to R142). -/
inductive Instr where
  /-- BRK: 00h, format OP, R480. -/
  | brk
  /-- SXB: 01h, function 08h, format R, R230. -/
  | sxb (rt : RegNum) (ra : RegNum)
  /-- SXC: 01h, function 09h, format R, R231. -/
  | sxc (rt : RegNum) (ra : RegNum)
  /-- SXH: 01h, function 0Ah, format R, R232. -/
  | sxh (rt : RegNum) (ra : RegNum)
  /-- ADD: 02h, function 04h, format RR, R233. -/
  | addR (rt : RegNum) (ra : RegNum) (rb : RegNum)
  /-- AND: 02h, function 20h, format RR, R235. -/
  | andR (rt : RegNum) (ra : RegNum) (rb : RegNum)
  /-- SHL: 02h, function 40h, format RR, R291. -/
  | shlR (rt : RegNum) (ra : RegNum) (rb : RegNum)
  /-- ROL: 02h, function 41h, format RR, R293. -/
  | rolR (rt : RegNum) (ra : RegNum) (rb : RegNum)
  /-- SHR: 02h, function 42h, format RR, R295. -/
  | shrR (rt : RegNum) (ra : RegNum) (rb : RegNum)
  /-- ROR: 02h, function 43h, format RR, R297. -/
  | rorR (rt : RegNum) (ra : RegNum) (rb : RegNum)
  /-- ASR: 02h, function 44h, format RR, R299. -/
  | asrR (rt : RegNum) (ra : RegNum) (rb : RegNum)
  /-- SHL#: 02h, function 50h, format RRI6, R292. -/
  | shlI (rt : RegNum) (ra : RegNum) (imm : BitVec 6)
  /-- ROL#: 02h, function 51h, format RRI6, R294. -/
  | rolI (rt : RegNum) (ra : RegNum) (imm : BitVec 6)
  /-- SHR#: 02h, function 52h, format RRI6, R296. -/
  | shrI (rt : RegNum) (ra : RegNum) (imm : BitVec 6)
  /-- ROR#: 02h, function 53h, format RRI6, R298. -/
  | rorI (rt : RegNum) (ra : RegNum) (imm : BitVec 6)
  /-- ASR#: 02h, function 54h, format RRI6, R300. -/
  | asrI (rt : RegNum) (ra : RegNum) (imm : BitVec 6)
  /-- TST: 08h + Ft, format TST, R202. -/
  | tst (ft : FlagNum) (ra : RegNum)
  /-- CMPI: 10h + Ft, format CMPI, R204. -/
  | cmpi (ft : FlagNum) (ra : RegNum) (imm : BitVec 8)
  /-- CMP: 18h + Ft, format CMP, R203. -/
  | cmp (ft : FlagNum) (ra : RegNum) (rb : RegNum)
  /-- ADD#: 20h, format RI, R234. -/
  | addI (rt : RegNum) (ra : RegNum) (imm : BitVec 8)
  /-- SUB#: 21h, format RI, R237. -/
  | subI (rt : RegNum) (ra : RegNum) (imm : BitVec 8)
  /-- MUL#: 22h, format RI, R238. -/
  | mulI (rt : RegNum) (ra : RegNum) (imm : BitVec 8)
  /-- DIV#: 23h, format RI, R239. -/
  | divI (rt : RegNum) (ra : RegNum) (imm : BitVec 8)
  /-- REM#: 24h, format RI, R240. -/
  | remI (rt : RegNum) (ra : RegNum) (imm : BitVec 8)
  /-- AND#: 28h, format RI, R236. -/
  | andI (rt : RegNum) (ra : RegNum) (imm : BitVec 8)
  /-- OR#: 29h, format RI, R241. -/
  | orI (rt : RegNum) (ra : RegNum) (imm : BitVec 8)
  /-- EOR#: 2Ah, format RI, R242. -/
  | eorI (rt : RegNum) (ra : RegNum) (imm : BitVec 8)
  /-- SEQ#: 30h, format RI, R246. -/
  | seqI (rt : RegNum) (ra : RegNum) (imm : BitVec 8)
  /-- SNE#: 31h, format RI, R247. -/
  | sneI (rt : RegNum) (ra : RegNum) (imm : BitVec 8)
  /-- MULU#: 32h, format RI, R243. -/
  | muluI (rt : RegNum) (ra : RegNum) (imm : BitVec 8)
  /-- DIVU#: 33h, format RI, R244. -/
  | divuI (rt : RegNum) (ra : RegNum) (imm : BitVec 8)
  /-- REMU#: 34h, format RI, R245. -/
  | remuI (rt : RegNum) (ra : RegNum) (imm : BitVec 8)
  /-- SGT#: 38h, format RI, R248. -/
  | sgtI (rt : RegNum) (ra : RegNum) (imm : BitVec 8)
  /-- SLE#: 39h, format RI, R249. -/
  | sleI (rt : RegNum) (ra : RegNum) (imm : BitVec 8)
  /-- SGE#: 3Ah, format RI, R250. -/
  | sgeI (rt : RegNum) (ra : RegNum) (imm : BitVec 8)
  /-- SLT#: 3Bh, format RI, R251. -/
  | sltI (rt : RegNum) (ra : RegNum) (imm : BitVec 8)
  /-- SHI#: 3Ch, format RI, R252. -/
  | shiI (rt : RegNum) (ra : RegNum) (imm : BitVec 8)
  /-- SLS#: 3Dh, format RI, R253. -/
  | slsI (rt : RegNum) (ra : RegNum) (imm : BitVec 8)
  /-- SHS#: 3Eh, format RI, R254. -/
  | shsI (rt : RegNum) (ra : RegNum) (imm : BitVec 8)
  /-- SLO#: 3Fh, format RI, R255. -/
  | sloI (rt : RegNum) (ra : RegNum) (imm : BitVec 8)
  /-- BEQ: 40h, format BCC, R322. -/
  | beq (fa : FlagNum) (disp : BitVec 5)
  /-- BNE: 41h, format BCC, R323. -/
  | bne (fa : FlagNum) (disp : BitVec 5)
  /-- BVS: 42h, format BCC, R324. -/
  | bvs (fa : FlagNum) (disp : BitVec 5)
  /-- BVC: 43h, format BCC, R325. -/
  | bvc (fa : FlagNum) (disp : BitVec 5)
  /-- BMI: 44h, format BCC, R326. -/
  | bmi (fa : FlagNum) (disp : BitVec 5)
  /-- BPL: 45h, format BCC, R327. -/
  | bpl (fa : FlagNum) (disp : BitVec 5)
  /-- BRA: 46h, format BCC, R328. -/
  | bra (fa : FlagNum) (disp : BitVec 5)
  /-- BNV: 47h, format BCC, R329. -/
  | bnv (fa : FlagNum) (disp : BitVec 5)
  /-- BGT: 48h, format BCC, R330. -/
  | bgt (fa : FlagNum) (disp : BitVec 5)
  /-- BLE: 49h, format BCC, R331. -/
  | ble (fa : FlagNum) (disp : BitVec 5)
  /-- BGE: 4Ah, format BCC, R332. -/
  | bge (fa : FlagNum) (disp : BitVec 5)
  /-- BLT: 4Bh, format BCC, R333. -/
  | blt (fa : FlagNum) (disp : BitVec 5)
  /-- BHI: 4Ch, format BCC, R334. -/
  | bhi (fa : FlagNum) (disp : BitVec 5)
  /-- BLS: 4Dh, format BCC, R335. -/
  | bls (fa : FlagNum) (disp : BitVec 5)
  /-- BHS: 4Eh, format BCC, R336. -/
  | bhs (fa : FlagNum) (disp : BitVec 5)
  /-- BLO: 4Fh, format BCC, R337. -/
  | blo (fa : FlagNum) (disp : BitVec 5)
  /-- LBEQ: 50h, format LBCC, R339. -/
  | lbeq (fa : FlagNum) (disp : BitVec 13)
  /-- LBNE: 51h, format LBCC, R340. -/
  | lbne (fa : FlagNum) (disp : BitVec 13)
  /-- LBVS: 52h, format LBCC, R341. -/
  | lbvs (fa : FlagNum) (disp : BitVec 13)
  /-- LBVC: 53h, format LBCC, R342. -/
  | lbvc (fa : FlagNum) (disp : BitVec 13)
  /-- LBMI: 54h, format LBCC, R343. -/
  | lbmi (fa : FlagNum) (disp : BitVec 13)
  /-- LBPL: 55h, format LBCC, R344. -/
  | lbpl (fa : FlagNum) (disp : BitVec 13)
  /-- LBRA: 56h, format LBCC, R345. -/
  | lbra (fa : FlagNum) (disp : BitVec 13)
  /-- LBNV: 57h, format LBCC, R346. -/
  | lbnv (fa : FlagNum) (disp : BitVec 13)
  /-- LBGT: 58h, format LBCC, R347. -/
  | lbgt (fa : FlagNum) (disp : BitVec 13)
  /-- LBLE: 59h, format LBCC, R348. -/
  | lble (fa : FlagNum) (disp : BitVec 13)
  /-- LBGE: 5Ah, format LBCC, R349. -/
  | lbge (fa : FlagNum) (disp : BitVec 13)
  /-- LBLT: 5Bh, format LBCC, R350. -/
  | lblt (fa : FlagNum) (disp : BitVec 13)
  /-- LBHI: 5Ch, format LBCC, R351. -/
  | lbhi (fa : FlagNum) (disp : BitVec 13)
  /-- LBLS: 5Dh, format LBCC, R352. -/
  | lbls (fa : FlagNum) (disp : BitVec 13)
  /-- LBHS: 5Eh, format LBCC, R353. -/
  | lbhs (fa : FlagNum) (disp : BitVec 13)
  /-- LBLO: 5Fh, format LBCC, R364. -/
  | lblo (fa : FlagNum) (disp : BitVec 13)
  /-- JALR: 60h, format JALR, R359. -/
  | jalr (bd : CaNum) (bs : CaNum)
  /-- JALR24: 61h, format JALR24, R360. -/
  | jalr24 (bd : CaNum) (bs : CaNum) (disp : BitVec 24)
  /-- TRAPV: 62h, format OP, R483. -/
  | trapv
  /-- RET: 63h, format OP, R361. -/
  | ret
  /-- BRZ: 68h, format BR, R354. -/
  | brz (ra : RegNum) (disp : BitVec 8)
  /-- BRNZ: 69h, format BR, R355. -/
  | brnz (ra : RegNum) (disp : BitVec 8)
  /-- BRMI: 6Ah, format BR, R356. -/
  | brmi (ra : RegNum) (disp : BitVec 8)
  /-- BRPL: 6Bh, format BR, R357. -/
  | brpl (ra : RegNum) (disp : BitVec 8)
  /-- DBNZ: 6Ch, format BR, R358. -/
  | dbnz (ra : RegNum) (disp : BitVec 8)
  /-- LB: 80h, format LD, R393. -/
  | lb (rt : RegNum) (ra : RegNum) (disp : BitVec 8)
  /-- LBU: 81h, format LD, R394. -/
  | lbu (rt : RegNum) (ra : RegNum) (disp : BitVec 8)
  /-- LC: 82h, format LD, R395. -/
  | lc (rt : RegNum) (ra : RegNum) (disp : BitVec 8)
  /-- LCU: 83h, format LD, R396. -/
  | lcu (rt : RegNum) (ra : RegNum) (disp : BitVec 8)
  /-- LH: 84h, format LD, R397. -/
  | lh (rt : RegNum) (ra : RegNum) (disp : BitVec 8)
  /-- LHU: 85h, format LD, R398. -/
  | lhu (rt : RegNum) (ra : RegNum) (disp : BitVec 8)
  /-- LW: 86h, format LD, R399. -/
  | lw (rt : RegNum) (ra : RegNum) (disp : BitVec 8)
  /-- LEA: 87h, format LD, R400. -/
  | lea (rt : RegNum) (ra : RegNum) (disp : BitVec 8)
  /-- LBx: 88h, format LDX, R401. -/
  | lbx (rt : RegNum) (ra : RegNum) (rb : RegNum)
  /-- LBUx: 89h, format LDX, R402. -/
  | lbux (rt : RegNum) (ra : RegNum) (rb : RegNum)
  /-- LCx: 8Ah, format LDX, R403. -/
  | lcx (rt : RegNum) (ra : RegNum) (rb : RegNum)
  /-- LCUx: 8Bh, format LDX, R404. -/
  | lcux (rt : RegNum) (ra : RegNum) (rb : RegNum)
  /-- LHx: 8Ch, format LDX, R405. -/
  | lhx (rt : RegNum) (ra : RegNum) (rb : RegNum)
  /-- LHUx: 8Dh, format LDX, R406. -/
  | lhux (rt : RegNum) (ra : RegNum) (rb : RegNum)
  /-- LWx: 8Eh, format LDX, R407. -/
  | lwx (rt : RegNum) (ra : RegNum) (rb : RegNum)
  /-- LEAx: 8Fh, format LDX, R408. -/
  | leax (rt : RegNum) (ra : RegNum) (rb : RegNum)
  /-- CAS: 97h, format CAS, R450. -/
  | cas (rt : RegNum) (rb : RegNum) (rc : RegNum) (ra : RegNum)
  /-- SB: A0h, format ST, R431. -/
  | sb (rs : RegNum) (ra : RegNum) (disp : BitVec 8)
  /-- SC: A1h, format ST, R432. -/
  | sc (rs : RegNum) (ra : RegNum) (disp : BitVec 8)
  /-- SH: A2h, format ST, R433. -/
  | sh (rs : RegNum) (ra : RegNum) (disp : BitVec 8)
  /-- SW: A3h, format ST, R434. -/
  | sw (rs : RegNum) (ra : RegNum) (disp : BitVec 8)
  /-- CINV: A4h, R439 (named in the opcode map only, length unknown). -/
  | cinv
  /-- SWS: A5h, R440 (named in the opcode map only, length unknown). -/
  | sws
  /-- PUSH: A6h, format PUSH, R445. -/
  | push (ra : RegNum)
  /-- POP: A7h, format POP, R447. -/
  | pop (rt : RegNum)
  /-- SBx: A8h, format STX, R435. -/
  | sbx (rs : RegNum) (ra : RegNum) (rb : RegNum)
  /-- SCx: A9h, format STX, R436. -/
  | scx (rs : RegNum) (ra : RegNum) (rb : RegNum)
  /-- SHx: AAh, format STX, R437. -/
  | shx (rs : RegNum) (ra : RegNum) (rb : RegNum)
  /-- SWx: ABh, format STX, R438. -/
  | swx (rs : RegNum) (ra : RegNum) (rb : RegNum)
  /-- CINVx: ACh, R441 (named in the opcode map only, length unknown). -/
  | cinvx
  /-- PUSHC: ADh, format PUSHC, R446. -/
  | pushc (imm : BitVec 16)
  /-- NOP: EAh, format OP, R481. -/
  | nop
  /-- IMM8: F1h, format IMMn, R485. -/
  | imm8 (p : BitVec 8)
  /-- IMM16: F2h, format IMMn, R486. -/
  | imm16 (p : BitVec 16)
  /-- IMM24: F3h, format IMMn, R487. -/
  | imm24 (p : BitVec 24)
  /-- IMM32: F4h, format IMMn, R488. -/
  | imm32 (p : BitVec 32)
  /-- IMM40: F5h, format IMMn, R489. -/
  | imm40 (p : BitVec 40)
  /-- IMM48: F6h, format IMMn, R490. -/
  | imm48 (p : BitVec 48)
  /-- IMM56: F7h, format IMMn, R491. -/
  | imm56 (p : BitVec 56)
  /-- IMM64: F8h, format IMMn, R492. -/
  | imm64 (p : BitVec 64)
  /-- CLI: FAh, format OP, R482. -/
  | cli
  deriving DecidableEq, Repr

end Sys2Proof
end

