-- ==== Sys2Proof/Machine/Dispatch.lean ====
section
/-! DEFINITION. The dispatch: one arm per constructor of Instr, each one direct call of the instruction's meaning. -/

namespace Sys2Proof.Machine

def exec (i : Instr) (s : State) : Host.Outcome State Fault Refusal :=
  match i with
  | .brk => Sys2Proof.Machine.execBrk s
  | .sxb rt ra => Sys2Proof.Machine.execSxb rt ra s
  | .sxc rt ra => Sys2Proof.Machine.execSxc rt ra s
  | .sxh rt ra => Sys2Proof.Machine.execSxh rt ra s
  | .addR rt ra rb => Sys2Proof.Machine.execAddR rt ra rb s
  | .andR rt ra rb => Sys2Proof.Machine.execAndR rt ra rb s
  | .shlR rt ra rb => Sys2Proof.Machine.execShlR rt ra rb s
  | .rolR rt ra rb => Sys2Proof.Machine.execRolR rt ra rb s
  | .shrR rt ra rb => Sys2Proof.Machine.execShrR rt ra rb s
  | .rorR rt ra rb => Sys2Proof.Machine.execRorR rt ra rb s
  | .asrR rt ra rb => Sys2Proof.Machine.execAsrR rt ra rb s
  | .shlI rt ra imm => Sys2Proof.Machine.execShlI rt ra imm s
  | .rolI rt ra imm => Sys2Proof.Machine.execRolI rt ra imm s
  | .shrI rt ra imm => Sys2Proof.Machine.execShrI rt ra imm s
  | .rorI rt ra imm => Sys2Proof.Machine.execRorI rt ra imm s
  | .asrI rt ra imm => Sys2Proof.Machine.execAsrI rt ra imm s
  | .tst ft ra => Sys2Proof.Machine.execTst ft ra s
  | .cmpi ft ra imm => Sys2Proof.Machine.execCmpi ft ra imm s
  | .cmp ft ra rb => Sys2Proof.Machine.execCmp ft ra rb s
  | .addI rt ra imm => Sys2Proof.Machine.execAddI rt ra imm s
  | .subI rt ra imm => Sys2Proof.Machine.execSubI rt ra imm s
  | .mulI rt ra imm => Sys2Proof.Machine.execMulI rt ra imm s
  | .divI rt ra imm => Sys2Proof.Machine.execDivI rt ra imm s
  | .remI rt ra imm => Sys2Proof.Machine.execRemI rt ra imm s
  | .andI rt ra imm => Sys2Proof.Machine.execAndI rt ra imm s
  | .orI rt ra imm => Sys2Proof.Machine.execOrI rt ra imm s
  | .eorI rt ra imm => Sys2Proof.Machine.execEorI rt ra imm s
  | .seqI rt ra imm => Sys2Proof.Machine.execSeqI rt ra imm s
  | .sneI rt ra imm => Sys2Proof.Machine.execSneI rt ra imm s
  | .muluI rt ra imm => Sys2Proof.Machine.execMuluI rt ra imm s
  | .divuI rt ra imm => Sys2Proof.Machine.execDivuI rt ra imm s
  | .remuI rt ra imm => Sys2Proof.Machine.execRemuI rt ra imm s
  | .sgtI rt ra imm => Sys2Proof.Machine.execSgtI rt ra imm s
  | .sleI rt ra imm => Sys2Proof.Machine.execSleI rt ra imm s
  | .sgeI rt ra imm => Sys2Proof.Machine.execSgeI rt ra imm s
  | .sltI rt ra imm => Sys2Proof.Machine.execSltI rt ra imm s
  | .shiI rt ra imm => Sys2Proof.Machine.execShiI rt ra imm s
  | .slsI rt ra imm => Sys2Proof.Machine.execSlsI rt ra imm s
  | .shsI rt ra imm => Sys2Proof.Machine.execShsI rt ra imm s
  | .sloI rt ra imm => Sys2Proof.Machine.execSloI rt ra imm s
  | .beq fa disp => Sys2Proof.Machine.execBeq fa disp s
  | .bne fa disp => Sys2Proof.Machine.execBne fa disp s
  | .bvs fa disp => Sys2Proof.Machine.execBvs fa disp s
  | .bvc fa disp => Sys2Proof.Machine.execBvc fa disp s
  | .bmi fa disp => Sys2Proof.Machine.execBmi fa disp s
  | .bpl fa disp => Sys2Proof.Machine.execBpl fa disp s
  | .bra fa disp => Sys2Proof.Machine.execBra fa disp s
  | .bnv fa disp => Sys2Proof.Machine.execBnv fa disp s
  | .bgt fa disp => Sys2Proof.Machine.execBgt fa disp s
  | .ble fa disp => Sys2Proof.Machine.execBle fa disp s
  | .bge fa disp => Sys2Proof.Machine.execBge fa disp s
  | .blt fa disp => Sys2Proof.Machine.execBlt fa disp s
  | .bhi fa disp => Sys2Proof.Machine.execBhi fa disp s
  | .bls fa disp => Sys2Proof.Machine.execBls fa disp s
  | .bhs fa disp => Sys2Proof.Machine.execBhs fa disp s
  | .blo fa disp => Sys2Proof.Machine.execBlo fa disp s
  | .lbeq fa disp => Sys2Proof.Machine.execLbeq fa disp s
  | .lbne fa disp => Sys2Proof.Machine.execLbne fa disp s
  | .lbvs fa disp => Sys2Proof.Machine.execLbvs fa disp s
  | .lbvc fa disp => Sys2Proof.Machine.execLbvc fa disp s
  | .lbmi fa disp => Sys2Proof.Machine.execLbmi fa disp s
  | .lbpl fa disp => Sys2Proof.Machine.execLbpl fa disp s
  | .lbra fa disp => Sys2Proof.Machine.execLbra fa disp s
  | .lbnv fa disp => Sys2Proof.Machine.execLbnv fa disp s
  | .lbgt fa disp => Sys2Proof.Machine.execLbgt fa disp s
  | .lble fa disp => Sys2Proof.Machine.execLble fa disp s
  | .lbge fa disp => Sys2Proof.Machine.execLbge fa disp s
  | .lblt fa disp => Sys2Proof.Machine.execLblt fa disp s
  | .lbhi fa disp => Sys2Proof.Machine.execLbhi fa disp s
  | .lbls fa disp => Sys2Proof.Machine.execLbls fa disp s
  | .lbhs fa disp => Sys2Proof.Machine.execLbhs fa disp s
  | .lblo fa disp => Sys2Proof.Machine.execLblo fa disp s
  | .jalr bd bs => Sys2Proof.Machine.execJalr bd bs s
  | .jalr24 bd bs disp => Sys2Proof.Machine.execJalr24 bd bs disp s
  | .trapv => Sys2Proof.Machine.execTrapv s
  | .ret => Sys2Proof.Machine.execRet s
  | .brz ra disp => Sys2Proof.Machine.execBrz ra disp s
  | .brnz ra disp => Sys2Proof.Machine.execBrnz ra disp s
  | .brmi ra disp => Sys2Proof.Machine.execBrmi ra disp s
  | .brpl ra disp => Sys2Proof.Machine.execBrpl ra disp s
  | .dbnz ra disp => Sys2Proof.Machine.execDbnz ra disp s
  | .lb rt ra disp => Sys2Proof.Machine.execLb rt ra disp s
  | .lbu rt ra disp => Sys2Proof.Machine.execLbu rt ra disp s
  | .lc rt ra disp => Sys2Proof.Machine.execLc rt ra disp s
  | .lcu rt ra disp => Sys2Proof.Machine.execLcu rt ra disp s
  | .lh rt ra disp => Sys2Proof.Machine.execLh rt ra disp s
  | .lhu rt ra disp => Sys2Proof.Machine.execLhu rt ra disp s
  | .lw rt ra disp => Sys2Proof.Machine.execLw rt ra disp s
  | .lea rt ra disp => Sys2Proof.Machine.execLea rt ra disp s
  | .lbx rt ra rb => Sys2Proof.Machine.execLbx rt ra rb s
  | .lbux rt ra rb => Sys2Proof.Machine.execLbux rt ra rb s
  | .lcx rt ra rb => Sys2Proof.Machine.execLcx rt ra rb s
  | .lcux rt ra rb => Sys2Proof.Machine.execLcux rt ra rb s
  | .lhx rt ra rb => Sys2Proof.Machine.execLhx rt ra rb s
  | .lhux rt ra rb => Sys2Proof.Machine.execLhux rt ra rb s
  | .lwx rt ra rb => Sys2Proof.Machine.execLwx rt ra rb s
  | .leax rt ra rb => Sys2Proof.Machine.execLeax rt ra rb s
  | .cas rt rb rc ra => Sys2Proof.Machine.execCas rt rb rc ra s
  | .sb rs ra disp => Sys2Proof.Machine.execSb rs ra disp s
  | .sc rs ra disp => Sys2Proof.Machine.execSc rs ra disp s
  | .sh rs ra disp => Sys2Proof.Machine.execSh rs ra disp s
  | .sw rs ra disp => Sys2Proof.Machine.execSw rs ra disp s
  | .cinv => Sys2Proof.Machine.execCinv s
  | .sws => Sys2Proof.Machine.execSws s
  | .push ra => Sys2Proof.Machine.execPush ra s
  | .pop rt => Sys2Proof.Machine.execPop rt s
  | .sbx rs ra rb => Sys2Proof.Machine.execSbx rs ra rb s
  | .scx rs ra rb => Sys2Proof.Machine.execScx rs ra rb s
  | .shx rs ra rb => Sys2Proof.Machine.execShx rs ra rb s
  | .swx rs ra rb => Sys2Proof.Machine.execSwx rs ra rb s
  | .cinvx => Sys2Proof.Machine.execCinvx s
  | .pushc imm => Sys2Proof.Machine.execPushc imm s
  | .nop => Sys2Proof.Machine.execNop s
  | .imm8 p => Sys2Proof.Machine.execImm8 p s
  | .imm16 p => Sys2Proof.Machine.execImm16 p s
  | .imm24 p => Sys2Proof.Machine.execImm24 p s
  | .imm32 p => Sys2Proof.Machine.execImm32 p s
  | .imm40 p => Sys2Proof.Machine.execImm40 p s
  | .imm48 p => Sys2Proof.Machine.execImm48 p s
  | .imm56 p => Sys2Proof.Machine.execImm56 p s
  | .imm64 p => Sys2Proof.Machine.execImm64 p s
  | .cli => Sys2Proof.Machine.execCli s

end Sys2Proof.Machine
end

