-- ==== Sys2Proof/Decode.lean ====
section
/-! DEFINITION. The decoder, total on any bytes and rejecting by name, and after it the encoder, both written from
spec/30_encoding.md: the lengths (R121), the formats (R123 to R139), the function codes (R140, R141) and the opcode map
(R142). The bytes of an instruction stand lowest address first, the opcode byte first (R86, R120). -/

namespace Sys2Proof

/-- Why bytes decode to no instruction. -/
inductive DecodeError where
  /-- There are fewer bytes than the instruction has. -/
  | truncated
  /-- The opcode byte's cell of the opcode map is blank (R144). -/
  | unassignedOpcode (opcode : Byte)
  /-- A function code of the `r` or `rr` group that the source does not list (R140, R141, R144). -/
  | unassignedFunction (opcode func : Byte)
  /-- One of the two `~` bits of a shift-immediate form is set (R135, R145). -/
  | reservedBitsSet (field : Byte)
  deriving DecidableEq, Repr

/-- What the decoder answers: the instruction and the bytes after it, or why there is none. -/
abbrev Decoded := Except DecodeError (Instr × List Byte)

/-- Format R, after the opcode: Ra, Rt, Func8; the function codes of the `r` group (R133, R141). -/
def decodeR : List Byte → Decoded
  | ra :: rt :: func :: rest =>
    match func.toNat with
    | 0x08 => .ok (.sxb rt ra, rest)
    | 0x09 => .ok (.sxc rt ra, rest)
    | 0x0A => .ok (.sxh rt ra, rest)
    | _ => .error (.unassignedFunction 0x01#8 func)
  | _ => .error .truncated

/-- Format RRI6's third byte: the two `~` bits, required to be zero, above Imm6 (R135, R145). -/
def decodeImm6 (field : Byte) (mk : BitVec 6 → Instr) (rest : List Byte) : Decoded :=
  if field.extractLsb' 6 2 = 0#2 then .ok (mk (field.extractLsb' 0 6), rest) else .error (.reservedBitsSet field)

/-- Formats RR and RRI6, after the opcode: Ra, Rb or Imm6, Rt, Func8; the function codes of the `rr` group
(R134, R135, R140). -/
def decodeRR : List Byte → Decoded
  | ra :: rb :: rt :: func :: rest =>
    match func.toNat with
    | 0x04 => .ok (.addR rt ra rb, rest)
    | 0x20 => .ok (.andR rt ra rb, rest)
    | 0x40 => .ok (.shlR rt ra rb, rest)
    | 0x41 => .ok (.rolR rt ra rb, rest)
    | 0x42 => .ok (.shrR rt ra rb, rest)
    | 0x43 => .ok (.rorR rt ra rb, rest)
    | 0x44 => .ok (.asrR rt ra rb, rest)
    | 0x50 => decodeImm6 rb (.shlI rt ra) rest
    | 0x51 => decodeImm6 rb (.rolI rt ra) rest
    | 0x52 => decodeImm6 rb (.shrI rt ra) rest
    | 0x53 => decodeImm6 rb (.rorI rt ra) rest
    | 0x54 => decodeImm6 rb (.asrI rt ra) rest
    | _ => .error (.unassignedFunction 0x02#8 func)
  | _ => .error .truncated

/-- Format RI, after the opcode: Ra, Rt, Imm8; also LD with Disp8 and ST with Rs for Rt (R130). -/
def decodeRI (mk : RegNum → RegNum → BitVec 8 → Instr) : List Byte → Decoded
  | ra :: rt :: imm :: rest => .ok (mk rt ra imm, rest)
  | _ => .error .truncated

/-- Format LDX, after the opcode: Ra, Rb, Rt; also STX with Rs for Rt (R132). -/
def decodeLDX (mk : RegNum → RegNum → RegNum → Instr) : List Byte → Decoded
  | ra :: rb :: rt :: rest => .ok (mk rt ra rb, rest)
  | _ => .error .truncated

/-- Format TST, after the opcode: Ra (R129). -/
def decodeTST (ft : FlagNum) : List Byte → Decoded
  | ra :: rest => .ok (.tst ft ra, rest)
  | _ => .error .truncated

/-- Format CMPI, after the opcode: Ra, Imm8 (R129). -/
def decodeCMPI (ft : FlagNum) : List Byte → Decoded
  | ra :: imm :: rest => .ok (.cmpi ft ra imm, rest)
  | _ => .error .truncated

/-- Format CMP, after the opcode: Ra, Rb (R129). -/
def decodeCMP (ft : FlagNum) : List Byte → Decoded
  | ra :: rb :: rest => .ok (.cmp ft ra rb, rest)
  | _ => .error .truncated

/-- Format BCC, after the opcode: `Disp5 : Fa` (R124). -/
def decodeBCC (mk : FlagNum → BitVec 5 → Instr) : List Byte → Decoded
  | b :: rest => .ok (mk (b.extractLsb' 0 3) (b.extractLsb' 3 5), rest)
  | _ => .error .truncated

/-- Format LBCC, after the opcode: `Disp13 : Fa` in two bytes, the low one first (R125). -/
def decodeLBCC (mk : FlagNum → BitVec 13 → Instr) : List Byte → Decoded
  | b1 :: b2 :: rest => .ok (mk ((b2 ++ b1).extractLsb' 0 3) ((b2 ++ b1).extractLsb' 3 13), rest)
  | _ => .error .truncated

/-- Format BR, after the opcode: Ra, Disp8 (R126). -/
def decodeBR (mk : RegNum → BitVec 8 → Instr) : List Byte → Decoded
  | ra :: disp :: rest => .ok (mk ra disp, rest)
  | _ => .error .truncated

/-- Format JALR, after the opcode: `Bs : Bd` (R127). -/
def decodeJALR : List Byte → Decoded
  | b :: rest => .ok (.jalr (b.extractLsb' 0 4) (b.extractLsb' 4 4), rest)
  | _ => .error .truncated

/-- Format JALR24, after the opcode: `Bs : Bd`, then Disp24 low byte first (R128). -/
def decodeJALR24 : List Byte → Decoded
  | b :: d0 :: d1 :: d2 :: rest => .ok (.jalr24 (b.extractLsb' 0 4) (b.extractLsb' 4 4) (d2 ++ d1 ++ d0), rest)
  | _ => .error .truncated

/-- Format CAS, after the opcode: Ra, Rb, Rc, Rt (R136). -/
def decodeCAS : List Byte → Decoded
  | ra :: rb :: rc :: rt :: rest => .ok (.cas rt rb rc ra, rest)
  | _ => .error .truncated

/-- Formats PUSH and POP, after the opcode: the register (R137). -/
def decodePUSH (mk : RegNum → Instr) : List Byte → Decoded
  | r :: rest => .ok (mk r, rest)
  | _ => .error .truncated

/-- Format PUSHC, after the opcode: Const16 low byte first (R138). -/
def decodePUSHC : List Byte → Decoded
  | c0 :: c1 :: rest => .ok (.pushc (c1 ++ c0), rest)
  | _ => .error .truncated

/-- Format IMMn, after an opcode F0h + n: the n bytes of P, least significant first (R139). -/
def decodeIMM : Nat → List Byte → Decoded
  | 1, p0 :: rest => .ok (.imm8 (p0), rest)
  | 2, p0 :: p1 :: rest => .ok (.imm16 (p1 ++ p0), rest)
  | 3, p0 :: p1 :: p2 :: rest => .ok (.imm24 (p2 ++ p1 ++ p0), rest)
  | 4, p0 :: p1 :: p2 :: p3 :: rest => .ok (.imm32 (p3 ++ p2 ++ p1 ++ p0), rest)
  | 5, p0 :: p1 :: p2 :: p3 :: p4 :: rest => .ok (.imm40 (p4 ++ p3 ++ p2 ++ p1 ++ p0), rest)
  | 6, p0 :: p1 :: p2 :: p3 :: p4 :: p5 :: rest => .ok (.imm48 (p5 ++ p4 ++ p3 ++ p2 ++ p1 ++ p0), rest)
  | 7, p0 :: p1 :: p2 :: p3 :: p4 :: p5 :: p6 :: rest => .ok (.imm56 (p6 ++ p5 ++ p4 ++ p3 ++ p2 ++ p1 ++ p0), rest)
  | 8, p0 :: p1 :: p2 :: p3 :: p4 :: p5 :: p6 :: p7 :: rest => .ok (.imm64 (p7 ++ p6 ++ p5 ++ p4 ++ p3 ++ p2 ++ p1 ++ p0), rest)
  | _, _ => .error .truncated

/-- The decoder (R122). The low three bits of the first byte are the operand Ft for 08h to 1Fh, where bits 7..3 select
TST, CMPI or CMP; every other first byte is one cell of the opcode map (R142). CINV, SWS and CINVx have no known
length; the decoder reads their opcode byte (R144). -/
def decode : List Byte → Decoded
  | [] => .error .truncated
  | op :: rest =>
    match (op.extractLsb' 3 5).toNat with
    | 1 => decodeTST (op.extractLsb' 0 3) rest
    | 2 => decodeCMPI (op.extractLsb' 0 3) rest
    | 3 => decodeCMP (op.extractLsb' 0 3) rest
    | _ =>
      match op.toNat with
      | 0x01 => decodeR rest
      | 0x02 => decodeRR rest
      | 0x00 => .ok (.brk, rest)
      | 0x20 => decodeRI .addI rest
      | 0x21 => decodeRI .subI rest
      | 0x22 => decodeRI .mulI rest
      | 0x23 => decodeRI .divI rest
      | 0x24 => decodeRI .remI rest
      | 0x28 => decodeRI .andI rest
      | 0x29 => decodeRI .orI rest
      | 0x2A => decodeRI .eorI rest
      | 0x30 => decodeRI .seqI rest
      | 0x31 => decodeRI .sneI rest
      | 0x32 => decodeRI .muluI rest
      | 0x33 => decodeRI .divuI rest
      | 0x34 => decodeRI .remuI rest
      | 0x38 => decodeRI .sgtI rest
      | 0x39 => decodeRI .sleI rest
      | 0x3A => decodeRI .sgeI rest
      | 0x3B => decodeRI .sltI rest
      | 0x3C => decodeRI .shiI rest
      | 0x3D => decodeRI .slsI rest
      | 0x3E => decodeRI .shsI rest
      | 0x3F => decodeRI .sloI rest
      | 0x40 => decodeBCC .beq rest
      | 0x41 => decodeBCC .bne rest
      | 0x42 => decodeBCC .bvs rest
      | 0x43 => decodeBCC .bvc rest
      | 0x44 => decodeBCC .bmi rest
      | 0x45 => decodeBCC .bpl rest
      | 0x46 => decodeBCC .bra rest
      | 0x47 => decodeBCC .bnv rest
      | 0x48 => decodeBCC .bgt rest
      | 0x49 => decodeBCC .ble rest
      | 0x4A => decodeBCC .bge rest
      | 0x4B => decodeBCC .blt rest
      | 0x4C => decodeBCC .bhi rest
      | 0x4D => decodeBCC .bls rest
      | 0x4E => decodeBCC .bhs rest
      | 0x4F => decodeBCC .blo rest
      | 0x50 => decodeLBCC .lbeq rest
      | 0x51 => decodeLBCC .lbne rest
      | 0x52 => decodeLBCC .lbvs rest
      | 0x53 => decodeLBCC .lbvc rest
      | 0x54 => decodeLBCC .lbmi rest
      | 0x55 => decodeLBCC .lbpl rest
      | 0x56 => decodeLBCC .lbra rest
      | 0x57 => decodeLBCC .lbnv rest
      | 0x58 => decodeLBCC .lbgt rest
      | 0x59 => decodeLBCC .lble rest
      | 0x5A => decodeLBCC .lbge rest
      | 0x5B => decodeLBCC .lblt rest
      | 0x5C => decodeLBCC .lbhi rest
      | 0x5D => decodeLBCC .lbls rest
      | 0x5E => decodeLBCC .lbhs rest
      | 0x5F => decodeLBCC .lblo rest
      | 0x60 => decodeJALR rest
      | 0x61 => decodeJALR24 rest
      | 0x62 => .ok (.trapv, rest)
      | 0x63 => .ok (.ret, rest)
      | 0x68 => decodeBR .brz rest
      | 0x69 => decodeBR .brnz rest
      | 0x6A => decodeBR .brmi rest
      | 0x6B => decodeBR .brpl rest
      | 0x6C => decodeBR .dbnz rest
      | 0x80 => decodeRI .lb rest
      | 0x81 => decodeRI .lbu rest
      | 0x82 => decodeRI .lc rest
      | 0x83 => decodeRI .lcu rest
      | 0x84 => decodeRI .lh rest
      | 0x85 => decodeRI .lhu rest
      | 0x86 => decodeRI .lw rest
      | 0x87 => decodeRI .lea rest
      | 0x88 => decodeLDX .lbx rest
      | 0x89 => decodeLDX .lbux rest
      | 0x8A => decodeLDX .lcx rest
      | 0x8B => decodeLDX .lcux rest
      | 0x8C => decodeLDX .lhx rest
      | 0x8D => decodeLDX .lhux rest
      | 0x8E => decodeLDX .lwx rest
      | 0x8F => decodeLDX .leax rest
      | 0x97 => decodeCAS rest
      | 0xA0 => decodeRI .sb rest
      | 0xA1 => decodeRI .sc rest
      | 0xA2 => decodeRI .sh rest
      | 0xA3 => decodeRI .sw rest
      | 0xA4 => .ok (.cinv, rest)
      | 0xA5 => .ok (.sws, rest)
      | 0xA6 => decodePUSH .push rest
      | 0xA7 => decodePUSH .pop rest
      | 0xA8 => decodeLDX .sbx rest
      | 0xA9 => decodeLDX .scx rest
      | 0xAA => decodeLDX .shx rest
      | 0xAB => decodeLDX .swx rest
      | 0xAC => .ok (.cinvx, rest)
      | 0xAD => decodePUSHC rest
      | 0xEA => .ok (.nop, rest)
      | 0xF1 => decodeIMM 1 rest
      | 0xF2 => decodeIMM 2 rest
      | 0xF3 => decodeIMM 3 rest
      | 0xF4 => decodeIMM 4 rest
      | 0xF5 => decodeIMM 5 rest
      | 0xF6 => decodeIMM 6 rest
      | 0xF7 => decodeIMM 7 rest
      | 0xF8 => decodeIMM 8 rest
      | 0xFA => .ok (.cli, rest)
      | _ => .error (.unassignedOpcode op)

/-- The length in bytes that the first byte alone determines (R121); `none` for an unassigned first byte (R144). For
CINV, SWS and CINVx, whose length is unknown, the one byte the decoder reads. -/
def opcodeLength (op : Byte) : Option Nat :=
  match op.toNat with
  | 0x00 | 0x62 | 0x63 | 0xA4 | 0xA5 | 0xAC | 0xEA | 0xFA => some 1
  | 0x08 | 0x09 | 0x0A | 0x0B | 0x0C | 0x0D | 0x0E | 0x0F | 0x40 | 0x41 | 0x42 | 0x43 | 0x44 | 0x45 | 0x46
  | 0x47 | 0x48 | 0x49 | 0x4A | 0x4B | 0x4C | 0x4D | 0x4E | 0x4F | 0x60 | 0xA6 | 0xA7 | 0xF1 => some 2
  | 0x10 | 0x11 | 0x12 | 0x13 | 0x14 | 0x15 | 0x16 | 0x17 | 0x18 | 0x19 | 0x1A | 0x1B | 0x1C | 0x1D | 0x1E
  | 0x1F | 0x50 | 0x51 | 0x52 | 0x53 | 0x54 | 0x55 | 0x56 | 0x57 | 0x58 | 0x59 | 0x5A | 0x5B | 0x5C | 0x5D
  | 0x5E | 0x5F | 0x68 | 0x69 | 0x6A | 0x6B | 0x6C | 0xAD | 0xF2 => some 3
  | 0x01 | 0x20 | 0x21 | 0x22 | 0x23 | 0x24 | 0x28 | 0x29 | 0x2A | 0x30 | 0x31 | 0x32 | 0x33 | 0x34 | 0x38
  | 0x39 | 0x3A | 0x3B | 0x3C | 0x3D | 0x3E | 0x3F | 0x80 | 0x81 | 0x82 | 0x83 | 0x84 | 0x85 | 0x86 | 0x87
  | 0x88 | 0x89 | 0x8A | 0x8B | 0x8C | 0x8D | 0x8E | 0x8F | 0xA0 | 0xA1 | 0xA2 | 0xA3 | 0xA8 | 0xA9 | 0xAA
  | 0xAB | 0xF3 => some 4
  | 0x02 | 0x61 | 0x97 | 0xF4 => some 5
  | 0xF5 => some 6
  | 0xF6 => some 7
  | 0xF7 => some 8
  | 0xF8 => some 9
  | _ => none

/-- The length in bytes of an instruction (R121). For CINV, SWS and CINVx, whose length is unknown, 1. -/
def Instr.length : Instr → Nat
  | .brk | .trapv | .ret | .cinv | .sws | .cinvx | .nop | .cli => 1
  | .tst _ _ | .beq _ _ | .bne _ _ | .bvs _ _ | .bvc _ _ | .bmi _ _ | .bpl _ _ | .bra _ _ | .bnv _ _ | .bgt _ _
  | .ble _ _ | .bge _ _ | .blt _ _ | .bhi _ _ | .bls _ _ | .bhs _ _ | .blo _ _ | .jalr _ _ | .push _ | .pop _
  | .imm8 _ => 2
  | .cmpi _ _ _ | .cmp _ _ _ | .lbeq _ _ | .lbne _ _ | .lbvs _ _ | .lbvc _ _ | .lbmi _ _ | .lbpl _ _
  | .lbra _ _ | .lbnv _ _ | .lbgt _ _ | .lble _ _ | .lbge _ _ | .lblt _ _ | .lbhi _ _ | .lbls _ _ | .lbhs _ _
  | .lblo _ _ | .brz _ _ | .brnz _ _ | .brmi _ _ | .brpl _ _ | .dbnz _ _ | .pushc _ | .imm16 _ => 3
  | .sxb _ _ | .sxc _ _ | .sxh _ _ | .addI _ _ _ | .subI _ _ _ | .mulI _ _ _ | .divI _ _ _ | .remI _ _ _
  | .andI _ _ _ | .orI _ _ _ | .eorI _ _ _ | .seqI _ _ _ | .sneI _ _ _ | .muluI _ _ _ | .divuI _ _ _
  | .remuI _ _ _ | .sgtI _ _ _ | .sleI _ _ _ | .sgeI _ _ _ | .sltI _ _ _ | .shiI _ _ _ | .slsI _ _ _
  | .shsI _ _ _ | .sloI _ _ _ | .lb _ _ _ | .lbu _ _ _ | .lc _ _ _ | .lcu _ _ _ | .lh _ _ _ | .lhu _ _ _
  | .lw _ _ _ | .lea _ _ _ | .lbx _ _ _ | .lbux _ _ _ | .lcx _ _ _ | .lcux _ _ _ | .lhx _ _ _ | .lhux _ _ _
  | .lwx _ _ _ | .leax _ _ _ | .sb _ _ _ | .sc _ _ _ | .sh _ _ _ | .sw _ _ _ | .sbx _ _ _ | .scx _ _ _
  | .shx _ _ _ | .swx _ _ _ | .imm24 _ => 4
  | .addR _ _ _ | .andR _ _ _ | .shlR _ _ _ | .rolR _ _ _ | .shrR _ _ _ | .rorR _ _ _ | .asrR _ _ _
  | .shlI _ _ _ | .rolI _ _ _ | .shrI _ _ _ | .rorI _ _ _ | .asrI _ _ _ | .jalr24 _ _ _ | .cas _ _ _ _
  | .imm32 _ => 5
  | .imm40 _ => 6
  | .imm48 _ => 7
  | .imm56 _ => 8
  | .imm64 _ => 9

/-- The low `n` bytes of `v`, the least significant first (R86). -/
def bytesLE : (n : Nat) → BitVec w → List Byte
  | 0, _ => []
  | n + 1, v => v.extractLsb' 0 8 :: bytesLE n (v >>> 8)

/-- The encoder: the bytes of an instruction, lowest address first (R123 to R142). -/
def encode : Instr → List Byte
  | .brk => [0x00#8]
  | .sxb rt ra => [0x01#8, ra, rt, 0x08#8]
  | .sxc rt ra => [0x01#8, ra, rt, 0x09#8]
  | .sxh rt ra => [0x01#8, ra, rt, 0x0A#8]
  | .addR rt ra rb => [0x02#8, ra, rb, rt, 0x04#8]
  | .andR rt ra rb => [0x02#8, ra, rb, rt, 0x20#8]
  | .shlR rt ra rb => [0x02#8, ra, rb, rt, 0x40#8]
  | .rolR rt ra rb => [0x02#8, ra, rb, rt, 0x41#8]
  | .shrR rt ra rb => [0x02#8, ra, rb, rt, 0x42#8]
  | .rorR rt ra rb => [0x02#8, ra, rb, rt, 0x43#8]
  | .asrR rt ra rb => [0x02#8, ra, rb, rt, 0x44#8]
  | .shlI rt ra imm => [0x02#8, ra, 0#2 ++ imm, rt, 0x50#8]
  | .rolI rt ra imm => [0x02#8, ra, 0#2 ++ imm, rt, 0x51#8]
  | .shrI rt ra imm => [0x02#8, ra, 0#2 ++ imm, rt, 0x52#8]
  | .rorI rt ra imm => [0x02#8, ra, 0#2 ++ imm, rt, 0x53#8]
  | .asrI rt ra imm => [0x02#8, ra, 0#2 ++ imm, rt, 0x54#8]
  | .tst ft ra => [1#5 ++ ft, ra]
  | .cmpi ft ra imm => [2#5 ++ ft, ra, imm]
  | .cmp ft ra rb => [3#5 ++ ft, ra, rb]
  | .addI rt ra imm => [0x20#8, ra, rt, imm]
  | .subI rt ra imm => [0x21#8, ra, rt, imm]
  | .mulI rt ra imm => [0x22#8, ra, rt, imm]
  | .divI rt ra imm => [0x23#8, ra, rt, imm]
  | .remI rt ra imm => [0x24#8, ra, rt, imm]
  | .andI rt ra imm => [0x28#8, ra, rt, imm]
  | .orI rt ra imm => [0x29#8, ra, rt, imm]
  | .eorI rt ra imm => [0x2A#8, ra, rt, imm]
  | .seqI rt ra imm => [0x30#8, ra, rt, imm]
  | .sneI rt ra imm => [0x31#8, ra, rt, imm]
  | .muluI rt ra imm => [0x32#8, ra, rt, imm]
  | .divuI rt ra imm => [0x33#8, ra, rt, imm]
  | .remuI rt ra imm => [0x34#8, ra, rt, imm]
  | .sgtI rt ra imm => [0x38#8, ra, rt, imm]
  | .sleI rt ra imm => [0x39#8, ra, rt, imm]
  | .sgeI rt ra imm => [0x3A#8, ra, rt, imm]
  | .sltI rt ra imm => [0x3B#8, ra, rt, imm]
  | .shiI rt ra imm => [0x3C#8, ra, rt, imm]
  | .slsI rt ra imm => [0x3D#8, ra, rt, imm]
  | .shsI rt ra imm => [0x3E#8, ra, rt, imm]
  | .sloI rt ra imm => [0x3F#8, ra, rt, imm]
  | .beq fa disp => [0x40#8, disp ++ fa]
  | .bne fa disp => [0x41#8, disp ++ fa]
  | .bvs fa disp => [0x42#8, disp ++ fa]
  | .bvc fa disp => [0x43#8, disp ++ fa]
  | .bmi fa disp => [0x44#8, disp ++ fa]
  | .bpl fa disp => [0x45#8, disp ++ fa]
  | .bra fa disp => [0x46#8, disp ++ fa]
  | .bnv fa disp => [0x47#8, disp ++ fa]
  | .bgt fa disp => [0x48#8, disp ++ fa]
  | .ble fa disp => [0x49#8, disp ++ fa]
  | .bge fa disp => [0x4A#8, disp ++ fa]
  | .blt fa disp => [0x4B#8, disp ++ fa]
  | .bhi fa disp => [0x4C#8, disp ++ fa]
  | .bls fa disp => [0x4D#8, disp ++ fa]
  | .bhs fa disp => [0x4E#8, disp ++ fa]
  | .blo fa disp => [0x4F#8, disp ++ fa]
  | .lbeq fa disp => 0x50#8 :: bytesLE 2 (disp ++ fa)
  | .lbne fa disp => 0x51#8 :: bytesLE 2 (disp ++ fa)
  | .lbvs fa disp => 0x52#8 :: bytesLE 2 (disp ++ fa)
  | .lbvc fa disp => 0x53#8 :: bytesLE 2 (disp ++ fa)
  | .lbmi fa disp => 0x54#8 :: bytesLE 2 (disp ++ fa)
  | .lbpl fa disp => 0x55#8 :: bytesLE 2 (disp ++ fa)
  | .lbra fa disp => 0x56#8 :: bytesLE 2 (disp ++ fa)
  | .lbnv fa disp => 0x57#8 :: bytesLE 2 (disp ++ fa)
  | .lbgt fa disp => 0x58#8 :: bytesLE 2 (disp ++ fa)
  | .lble fa disp => 0x59#8 :: bytesLE 2 (disp ++ fa)
  | .lbge fa disp => 0x5A#8 :: bytesLE 2 (disp ++ fa)
  | .lblt fa disp => 0x5B#8 :: bytesLE 2 (disp ++ fa)
  | .lbhi fa disp => 0x5C#8 :: bytesLE 2 (disp ++ fa)
  | .lbls fa disp => 0x5D#8 :: bytesLE 2 (disp ++ fa)
  | .lbhs fa disp => 0x5E#8 :: bytesLE 2 (disp ++ fa)
  | .lblo fa disp => 0x5F#8 :: bytesLE 2 (disp ++ fa)
  | .jalr bd bs => [0x60#8, bs ++ bd]
  | .jalr24 bd bs disp => 0x61#8 :: (bs ++ bd) :: bytesLE 3 disp
  | .trapv => [0x62#8]
  | .ret => [0x63#8]
  | .brz ra disp => [0x68#8, ra, disp]
  | .brnz ra disp => [0x69#8, ra, disp]
  | .brmi ra disp => [0x6A#8, ra, disp]
  | .brpl ra disp => [0x6B#8, ra, disp]
  | .dbnz ra disp => [0x6C#8, ra, disp]
  | .lb rt ra disp => [0x80#8, ra, rt, disp]
  | .lbu rt ra disp => [0x81#8, ra, rt, disp]
  | .lc rt ra disp => [0x82#8, ra, rt, disp]
  | .lcu rt ra disp => [0x83#8, ra, rt, disp]
  | .lh rt ra disp => [0x84#8, ra, rt, disp]
  | .lhu rt ra disp => [0x85#8, ra, rt, disp]
  | .lw rt ra disp => [0x86#8, ra, rt, disp]
  | .lea rt ra disp => [0x87#8, ra, rt, disp]
  | .lbx rt ra rb => [0x88#8, ra, rb, rt]
  | .lbux rt ra rb => [0x89#8, ra, rb, rt]
  | .lcx rt ra rb => [0x8A#8, ra, rb, rt]
  | .lcux rt ra rb => [0x8B#8, ra, rb, rt]
  | .lhx rt ra rb => [0x8C#8, ra, rb, rt]
  | .lhux rt ra rb => [0x8D#8, ra, rb, rt]
  | .lwx rt ra rb => [0x8E#8, ra, rb, rt]
  | .leax rt ra rb => [0x8F#8, ra, rb, rt]
  | .cas rt rb rc ra => [0x97#8, ra, rb, rc, rt]
  | .sb rs ra disp => [0xA0#8, ra, rs, disp]
  | .sc rs ra disp => [0xA1#8, ra, rs, disp]
  | .sh rs ra disp => [0xA2#8, ra, rs, disp]
  | .sw rs ra disp => [0xA3#8, ra, rs, disp]
  | .cinv => [0xA4#8]
  | .sws => [0xA5#8]
  | .push ra => [0xA6#8, ra]
  | .pop rt => [0xA7#8, rt]
  | .sbx rs ra rb => [0xA8#8, ra, rb, rs]
  | .scx rs ra rb => [0xA9#8, ra, rb, rs]
  | .shx rs ra rb => [0xAA#8, ra, rb, rs]
  | .swx rs ra rb => [0xAB#8, ra, rb, rs]
  | .cinvx => [0xAC#8]
  | .pushc imm => 0xAD#8 :: bytesLE 2 imm
  | .nop => [0xEA#8]
  | .imm8 p => 0xF1#8 :: bytesLE 1 p
  | .imm16 p => 0xF2#8 :: bytesLE 2 p
  | .imm24 p => 0xF3#8 :: bytesLE 3 p
  | .imm32 p => 0xF4#8 :: bytesLE 4 p
  | .imm40 p => 0xF5#8 :: bytesLE 5 p
  | .imm48 p => 0xF6#8 :: bytesLE 6 p
  | .imm56 p => 0xF7#8 :: bytesLE 7 p
  | .imm64 p => 0xF8#8 :: bytesLE 8 p
  | .cli => [0xFA#8]

/-- The longest instruction, IMM64, has 9 bytes (R120). -/
def maxLength : Nat := 9

/-- The bytes in memory of a table word of `nbits` bits: `w` least significant byte first (R154), every bit above `nbits` zero,
up to the longest instruction. -/
def tableBytes (nbits w : Nat) : List Byte := bytesLE maxLength (BitVec.ofNat (8 * maxLength) (w % 2 ^ nbits))

/-- The instruction the decoder reads from a table word of `nbits` bits (R154). -/
def decodeTableWord (nbits w : Nat) : Option Instr :=
  match decode (tableBytes nbits w) with
  | .ok (i, _) => some i
  | .error _ => none

end Sys2Proof
end

