-- ==== Sys2Proof/Machine/Fetch.lean ====
section
/-! DEFINITION. Instruction fetch (spec/10_state.md R60 step 2, spec/20_memory.md R86), and the placing of an instruction
where the next step fetches. -/

namespace Sys2Proof.Machine

/-- The `n` bytes from `a` up, or none if one of them does not exist (R86). -/
def fetchBytes (s : State) (a : Word) : Nat → Option (List Byte)
  | 0 => some []
  | n + 1 => if s.present a then (fetchBytes s (a + 1#64) n).map (s.byteAt a :: ·) else none

/-- Fetch at the pc: the opcode byte, then the bytes of the length it determines, then the instruction; a byte that does
not exist is an access fault, an encoding no instruction has is illegal (R60 step 2, R86, R121, R144, R533). -/
def fetch (s : State) : Except Exn Instr :=
  if s.present s.pc then
    match opcodeLength (s.byteAt s.pc) with
    | none => .error .illegalInstruction
    | some len =>
      match fetchBytes s s.pc len with
      | none => .error .accessFault
      | some bytes =>
        match decode bytes with
        | .ok (i, _) => .ok i
        | .error _ => .error .illegalInstruction
  else .error .accessFault

/-- Memory with the bytes at `a`, `a + 1`, …. -/
def placeBytes (m : Memory) (a : Word) : List Byte → Memory
  | [] => m
  | b :: bs => placeBytes (Memory.write m a.toNat b) (a + 1#64) bs

/-- One region for each of the `n` byte addresses from `a` up. -/
def byteRegions (a : Word) : Nat → List Region
  | 0 => []
  | n + 1 => ⟨a.toNat, 1⟩ :: byteRegions (a + 1#64) n

/-- The launch with the `n` byte addresses from `a` up existing: the launch itself where they do. -/
def Launch.withPresent (l : Launch) (a : Word) (n : Nat) : Launch :=
  if allBytes (fun b => l.present.any (·.has b)) a n then l else { l with present := byteRegions a n ++ l.present }

/-- Place the bytes where the next step fetches: at the pc, on addresses that exist, no interrupt coming before them. -/
def State.placeAtPc (s : State) (bytes : List Byte) : State :=
  { s with
    mem := placeBytes s.mem s.pc bytes
    irqPending := if s.irqToTake.isSome then [] else s.irqPending
    launch := s.launch.withPresent s.pc bytes.length }

end Sys2Proof.Machine
end

