-- ==== Sys2Proof/Machine/Step.lean ====
section
/-! DEFINITION. One step of the machine (spec/10_state.md R60), and the placing of a table word where the next step
fetches. -/

namespace Sys2Proof.Machine

/-- One step, in the order of R60: take an admitted interrupt; else fetch and decode, raising at the pc what that raises;
else run the instruction. The admission of prefixes, the clearing of them and the advance of the pc (steps 3, 4 and 6) are
part of each instruction's meaning. -/
def step (s : State) : Host.Outcome State Fault Refusal :=
  match s.irqToTake with
  | some src => takeInterrupt src s
  | none =>
    match fetch s with
    | .ok i => exec i s
    | .error e => raise e s.pc s

/-- `s` with the instruction of a table word of `nbits` bits stored where `step` fetches its next instruction, every bit
above `nbits` zero up to the longest instruction (spec/30_encoding.md R154; log entry 13). -/
def State.withFetchWord (s : State) (nbits w : Nat) : State := s.placeAtPc (tableBytes nbits w)

end Sys2Proof.Machine
end

