-- ==== Sys2Proof/WellFormed.lean ====
section
/-! DEFINITION. Well-formedness of what the syntax alone does not guarantee: an instruction the spec describes, a
sequence of prefixes and its target (spec/46_prefix_system.md R493, spec/30_encoding.md R152), and the parameters of
a launch (spec/00_scope.md R7). These are predicates for statements; the machine itself refuses an ill-formed
sequence by its own checks in Sys2Proof/Machine. -/

namespace Sys2Proof

/-- Does the spec describe the instruction (its format and length)? It does for all but CINV, SWS and CINVx, of
which the source has the name and the opcode byte only (R144, R439 to R441). Every operand has its field's exact
width by its type, so nothing else can be wrong with a single instruction. -/
def Instr.wellFormed : Instr → Bool
  | .cinv | .sws | .cinvx => false
  | .brk | .sxb _ _ | .sxc _ _ | .sxh _ _ | .addR _ _ _ | .andR _ _ _ | .shlR _ _ _ | .rolR _ _ _ | .shrR _ _ _
  | .rorR _ _ _ | .asrR _ _ _ | .shlI _ _ _ | .rolI _ _ _ | .shrI _ _ _ | .rorI _ _ _ | .asrI _ _ _ | .tst _ _
  | .cmpi _ _ _ | .cmp _ _ _ | .addI _ _ _ | .subI _ _ _ | .mulI _ _ _ | .divI _ _ _ | .remI _ _ _
  | .andI _ _ _ | .orI _ _ _ | .eorI _ _ _ | .seqI _ _ _ | .sneI _ _ _ | .muluI _ _ _ | .divuI _ _ _
  | .remuI _ _ _ | .sgtI _ _ _ | .sleI _ _ _ | .sgeI _ _ _ | .sltI _ _ _ | .shiI _ _ _ | .slsI _ _ _
  | .shsI _ _ _ | .sloI _ _ _ | .beq _ _ | .bne _ _ | .bvs _ _ | .bvc _ _ | .bmi _ _ | .bpl _ _ | .bra _ _
  | .bnv _ _ | .bgt _ _ | .ble _ _ | .bge _ _ | .blt _ _ | .bhi _ _ | .bls _ _ | .bhs _ _ | .blo _ _
  | .lbeq _ _ | .lbne _ _ | .lbvs _ _ | .lbvc _ _ | .lbmi _ _ | .lbpl _ _ | .lbra _ _ | .lbnv _ _ | .lbgt _ _
  | .lble _ _ | .lbge _ _ | .lblt _ _ | .lbhi _ _ | .lbls _ _ | .lbhs _ _ | .lblo _ _ | .jalr _ _
  | .jalr24 _ _ _ | .trapv | .ret | .brz _ _ | .brnz _ _ | .brmi _ _ | .brpl _ _ | .dbnz _ _ | .lb _ _ _
  | .lbu _ _ _ | .lc _ _ _ | .lcu _ _ _ | .lh _ _ _ | .lhu _ _ _ | .lw _ _ _ | .lea _ _ _ | .lbx _ _ _
  | .lbux _ _ _ | .lcx _ _ _ | .lcux _ _ _ | .lhx _ _ _ | .lhux _ _ _ | .lwx _ _ _ | .leax _ _ _ | .cas _ _ _ _
  | .sb _ _ _ | .sc _ _ _ | .sh _ _ _ | .sw _ _ _ | .push _ | .pop _ | .sbx _ _ _ | .scx _ _ _ | .shx _ _ _
  | .swx _ _ _ | .pushc _ | .nop | .imm8 _ | .imm16 _ | .imm24 _ | .imm32 _ | .imm40 _ | .imm48 _ | .imm56 _
  | .imm64 _ | .cli => true

/-- The width in bits of the instruction's own constant field, for the instructions that accept an immediate
prefix (R131, R152); `none` for those that accept none. -/
def Instr.constWidth : Instr → Option Nat
  | .addI _ _ _ | .subI _ _ _ | .mulI _ _ _ | .divI _ _ _ | .remI _ _ _ | .andI _ _ _ | .orI _ _ _
  | .eorI _ _ _ | .seqI _ _ _ | .sneI _ _ _ | .muluI _ _ _ | .divuI _ _ _ | .remuI _ _ _ | .sgtI _ _ _
  | .sleI _ _ _ | .sgeI _ _ _ | .sltI _ _ _ | .shiI _ _ _ | .slsI _ _ _ | .shsI _ _ _ | .sloI _ _ _ | .lb _ _ _
  | .lbu _ _ _ | .lc _ _ _ | .lcu _ _ _ | .lh _ _ _ | .lhu _ _ _ | .lw _ _ _ | .lea _ _ _ | .sb _ _ _
  | .sc _ _ _ | .sh _ _ _ | .sw _ _ _ => some 8
  | .pushc _ => some 16
  | .lbx _ _ _ | .lbux _ _ _ | .lcx _ _ _ | .lcux _ _ _ | .lhx _ _ _ | .lhux _ _ _ | .lwx _ _ _ | .leax _ _ _
  | .cas _ _ _ _ | .sbx _ _ _ | .scx _ _ _ | .shx _ _ _ | .swx _ _ _ => some 0
  | .brk | .sxb _ _ | .sxc _ _ | .sxh _ _ | .addR _ _ _ | .andR _ _ _ | .shlR _ _ _ | .rolR _ _ _ | .shrR _ _ _
  | .rorR _ _ _ | .asrR _ _ _ | .shlI _ _ _ | .rolI _ _ _ | .shrI _ _ _ | .rorI _ _ _ | .asrI _ _ _ | .tst _ _
  | .cmpi _ _ _ | .cmp _ _ _ | .beq _ _ | .bne _ _ | .bvs _ _ | .bvc _ _ | .bmi _ _ | .bpl _ _ | .bra _ _
  | .bnv _ _ | .bgt _ _ | .ble _ _ | .bge _ _ | .blt _ _ | .bhi _ _ | .bls _ _ | .bhs _ _ | .blo _ _
  | .lbeq _ _ | .lbne _ _ | .lbvs _ _ | .lbvc _ _ | .lbmi _ _ | .lbpl _ _ | .lbra _ _ | .lbnv _ _ | .lbgt _ _
  | .lble _ _ | .lbge _ _ | .lblt _ _ | .lbhi _ _ | .lbls _ _ | .lbhs _ _ | .lblo _ _ | .jalr _ _
  | .jalr24 _ _ _ | .trapv | .ret | .brz _ _ | .brnz _ _ | .brmi _ _ | .brpl _ _ | .dbnz _ _ | .cinv | .sws
  | .push _ | .pop _ | .cinvx | .nop | .imm8 _ | .imm16 _ | .imm24 _ | .imm32 _ | .imm40 _ | .imm48 _
  | .imm56 _ | .imm64 _ | .cli => none

/-- The number of prefix bits an immediate-prefix instruction carries (R139); `none` for every other instruction. -/
def Instr.prefixBits : Instr → Option Nat
  | .imm8 _ => some 8
  | .imm16 _ => some 16
  | .imm24 _ => some 24
  | .imm32 _ => some 32
  | .imm40 _ => some 40
  | .imm48 _ => some 48
  | .imm56 _ => some 56
  | .imm64 _ => some 64
  | .brk | .sxb _ _ | .sxc _ _ | .sxh _ _ | .addR _ _ _ | .andR _ _ _ | .shlR _ _ _ | .rolR _ _ _ | .shrR _ _ _
  | .rorR _ _ _ | .asrR _ _ _ | .shlI _ _ _ | .rolI _ _ _ | .shrI _ _ _ | .rorI _ _ _ | .asrI _ _ _ | .tst _ _
  | .cmpi _ _ _ | .cmp _ _ _ | .addI _ _ _ | .subI _ _ _ | .mulI _ _ _ | .divI _ _ _ | .remI _ _ _
  | .andI _ _ _ | .orI _ _ _ | .eorI _ _ _ | .seqI _ _ _ | .sneI _ _ _ | .muluI _ _ _ | .divuI _ _ _
  | .remuI _ _ _ | .sgtI _ _ _ | .sleI _ _ _ | .sgeI _ _ _ | .sltI _ _ _ | .shiI _ _ _ | .slsI _ _ _
  | .shsI _ _ _ | .sloI _ _ _ | .beq _ _ | .bne _ _ | .bvs _ _ | .bvc _ _ | .bmi _ _ | .bpl _ _ | .bra _ _
  | .bnv _ _ | .bgt _ _ | .ble _ _ | .bge _ _ | .blt _ _ | .bhi _ _ | .bls _ _ | .bhs _ _ | .blo _ _
  | .lbeq _ _ | .lbne _ _ | .lbvs _ _ | .lbvc _ _ | .lbmi _ _ | .lbpl _ _ | .lbra _ _ | .lbnv _ _ | .lbgt _ _
  | .lble _ _ | .lbge _ _ | .lblt _ _ | .lbhi _ _ | .lbls _ _ | .lbhs _ _ | .lblo _ _ | .jalr _ _
  | .jalr24 _ _ _ | .trapv | .ret | .brz _ _ | .brnz _ _ | .brmi _ _ | .brpl _ _ | .dbnz _ _ | .lb _ _ _
  | .lbu _ _ _ | .lc _ _ _ | .lcu _ _ _ | .lh _ _ _ | .lhu _ _ _ | .lw _ _ _ | .lea _ _ _ | .lbx _ _ _
  | .lbux _ _ _ | .lcx _ _ _ | .lcux _ _ _ | .lhx _ _ _ | .lhux _ _ _ | .lwx _ _ _ | .leax _ _ _ | .cas _ _ _ _
  | .sb _ _ _ | .sc _ _ _ | .sh _ _ _ | .sw _ _ _ | .cinv | .sws | .push _ | .pop _ | .sbx _ _ _ | .scx _ _ _
  | .shx _ _ _ | .swx _ _ _ | .cinvx | .pushc _ | .nop | .cli => none

/-- Does the instruction accept the TRAPV prefix? Only ADD, in both forms, does (R483). -/
def Instr.acceptsTrapv : Instr → Bool
  | .addR _ _ _ | .addI _ _ _ => true
  | .brk | .sxb _ _ | .sxc _ _ | .sxh _ _ | .andR _ _ _ | .shlR _ _ _ | .rolR _ _ _ | .shrR _ _ _ | .rorR _ _ _
  | .asrR _ _ _ | .shlI _ _ _ | .rolI _ _ _ | .shrI _ _ _ | .rorI _ _ _ | .asrI _ _ _ | .tst _ _ | .cmpi _ _ _
  | .cmp _ _ _ | .subI _ _ _ | .mulI _ _ _ | .divI _ _ _ | .remI _ _ _ | .andI _ _ _ | .orI _ _ _ | .eorI _ _ _
  | .seqI _ _ _ | .sneI _ _ _ | .muluI _ _ _ | .divuI _ _ _ | .remuI _ _ _ | .sgtI _ _ _ | .sleI _ _ _
  | .sgeI _ _ _ | .sltI _ _ _ | .shiI _ _ _ | .slsI _ _ _ | .shsI _ _ _ | .sloI _ _ _ | .beq _ _ | .bne _ _
  | .bvs _ _ | .bvc _ _ | .bmi _ _ | .bpl _ _ | .bra _ _ | .bnv _ _ | .bgt _ _ | .ble _ _ | .bge _ _ | .blt _ _
  | .bhi _ _ | .bls _ _ | .bhs _ _ | .blo _ _ | .lbeq _ _ | .lbne _ _ | .lbvs _ _ | .lbvc _ _ | .lbmi _ _
  | .lbpl _ _ | .lbra _ _ | .lbnv _ _ | .lbgt _ _ | .lble _ _ | .lbge _ _ | .lblt _ _ | .lbhi _ _ | .lbls _ _
  | .lbhs _ _ | .lblo _ _ | .jalr _ _ | .jalr24 _ _ _ | .trapv | .ret | .brz _ _ | .brnz _ _ | .brmi _ _
  | .brpl _ _ | .dbnz _ _ | .lb _ _ _ | .lbu _ _ _ | .lc _ _ _ | .lcu _ _ _ | .lh _ _ _ | .lhu _ _ _
  | .lw _ _ _ | .lea _ _ _ | .lbx _ _ _ | .lbux _ _ _ | .lcx _ _ _ | .lcux _ _ _ | .lhx _ _ _ | .lhux _ _ _
  | .lwx _ _ _ | .leax _ _ _ | .cas _ _ _ _ | .sb _ _ _ | .sc _ _ _ | .sh _ _ _ | .sw _ _ _ | .cinv | .sws
  | .push _ | .pop _ | .sbx _ _ _ | .scx _ _ _ | .shx _ _ _ | .swx _ _ _ | .cinvx | .pushc _ | .nop | .imm8 _
  | .imm16 _ | .imm24 _ | .imm32 _ | .imm40 _ | .imm48 _ | .imm56 _ | .imm64 _ | .cli => false

/-- May `i` be the target of the pending prefixes: `p` the bits of a pending immediate prefix, `t` a pending TRAPV?
It must accept each, and its constant must fit 64 bits (R131, R152, R483, R493). -/
def Instr.admits (p : Option Nat) (t : Bool) (i : Instr) : Bool :=
  (match p, i.constWidth with
    | none, _ => true
    | some _, none => false
    | some n, some w => n + w ≤ 64)
  && (!t || i.acceptsTrapv)

/-- `groupFrom p t is`: under the pending prefixes `p`, `t`, is `is` the rest of a prefix sequence, at most one IMMn
and at most one TRAPV in either order and then one target that accepts them (R493)? -/
def groupFrom (p : Option Nat) (t : Bool) : List Instr → Bool
  | [] => false
  | i :: is =>
    match i.prefixBits with
    | some n => p.isNone && groupFrom (some n) t is
    | none => if i = .trapv then !t && groupFrom p true is else is.isEmpty && i.wellFormed && i.admits p t

/-- A well-formed prefix sequence: the prefixes and the one instruction they apply to (R493). -/
def groupWellFormed (is : List Instr) : Bool := groupFrom none false is

namespace Machine

/-- A region lies inside the 64-bit address space (R80). -/
def Region.wellFormed (r : Region) : Bool := r.base + r.size ≤ 2 ^ 64

/-- A launch the spec allows: `SP_REG` is in 1..255 (R33), and what exists and what is text are addresses (R80). -/
def Launch.wellFormed (l : Launch) : Bool :=
  l.spReg != 0#8 && l.present.all Region.wellFormed && l.text.all Region.wellFormed

end Machine

end Sys2Proof
end

