-- ==== Sys2Proof/Safety.lean ====
section
/-! DEFINITION. The vocabulary in which statements about the machine are made: that an outcome is a next state with a
property, what an instruction changes and that it changes nothing else, what raising an exception leaves, which accesses to
memory succeed, and the invariant of the machine. -/

namespace Sys2Proof.Machine

/-! ### Outcomes -/

/-- The outcome is a next state, and it has the property. -/
def Completes (o : Out) (P : State → Prop) : Prop := ∃ t, o = .next t ∧ P t

/-- The outcome is a refusal. -/
def Refuses (o : Out) : Prop := ∃ r, o = .refused r

/-- The bytes are the instruction's encoding, whatever follows them. -/
def Encodes (bytes : List Byte) (i : Instr) : Prop := ∀ rest, decode (bytes ++ rest) = .ok (i, rest)

/-- No prefix is pending. -/
def NoPrefix (s : State) : Prop := s.ipfx = none ∧ s.tpfx = false

/-- The instruction is refused whenever a prefix is pending (R152, R483, R493). -/
def RefusesPrefixes (i : Instr) : Prop := ∀ s, ¬NoPrefix s → Refuses (exec i s)

/-! ### What a state `t` shares with a state `s` before it -/

/-- Every general register but `rt` is unchanged. -/
def SameRegsBut (rt : RegNum) (s t : State) : Prop := ∀ r, r ≠ rt → t.reg r = s.reg r

/-- Every general register is unchanged. -/
def SameRegs (s t : State) : Prop := ∀ r, t.reg r = s.reg r

/-- `rt` holds `v` (if it is not R0), and every other general register is unchanged. What R0 reads as is the statement
`Obligations.GeneralRegisterWriters`. -/
def WritesReg (rt : RegNum) (v : Word) (s t : State) : Prop := SameRegsBut rt s t ∧ (rt ≠ 0#8 → t.reg rt = v)

/-- CA0 to CA14 are unchanged. -/
def SameCa (s t : State) : Prop := ∀ i len, i ≠ 15#4 → t.caReg len i = s.caReg len i

/-- CA`bd` holds `v`, unless it is CA0 or CA15; every other code address register but the pc is unchanged. -/
def WritesCa (bd : CaNum) (v : Word) (s t : State) : Prop :=
  ∀ i len, i ≠ 15#4 → t.caReg len i = if i = bd ∧ bd ≠ 0#4 then v else s.caReg len i

/-- Every flag register is unchanged. -/
def SameFlags (s t : State) : Prop := ∀ j, t.flag j = s.flag j

/-- Flag register `ft` holds `v`; every other is unchanged. -/
def WritesFlag (ft : FlagNum) (v : BitVec 4) (s t : State) : Prop := ∀ j, t.flag j = if j = ft then v else s.flag j

/-- Every byte of memory is unchanged. -/
def SameBytes (s t : State) : Prop := ∀ b, t.byteAt b = s.byteAt b

/-- The `n` bytes from `a` up, addresses wrapping, hold the low `n` bytes of `v`, the least significant first; every other
byte of memory is unchanged. -/
def WritesBytes (a : Word) (n : Nat) (v : Word) (s t : State) : Prop :=
  ∀ b, t.byteAt b = if (b - a).toNat < n then v.extractLsb' (8 * (b - a).toNat) 8 else s.byteAt b

/-- The next instruction is at `pc`, no prefix is pending, and the interrupt inputs and the launch are unchanged. -/
structure EndsAt (pc : Word) (s t : State) : Prop where
  pc : t.pc = pc
  ipfx : t.ipfx = none
  tpfx : t.tpfx = false
  irqPending : t.irqPending = s.irqPending
  launch : t.launch = s.launch

/-- Nothing changes but the pc. -/
structure OnlyPc (pc : Word) (s t : State) : Prop where
  regs : SameRegs s t
  ca : SameCa s t
  flags : SameFlags s t
  bytes : SameBytes s t
  sr : t.sr = s.sr
  ends : EndsAt pc s t

/-- General register `rt` takes the value `v`; nothing else changes but the pc. -/
structure OnlyReg (rt : RegNum) (v : Word) (pc : Word) (s t : State) : Prop where
  regs : WritesReg rt v s t
  ca : SameCa s t
  flags : SameFlags s t
  bytes : SameBytes s t
  sr : t.sr = s.sr
  ends : EndsAt pc s t

/-- Flag register `ft` takes the value `v`; nothing else changes but the pc. -/
structure OnlyFlag (ft : FlagNum) (v : BitVec 4) (pc : Word) (s t : State) : Prop where
  regs : SameRegs s t
  ca : SameCa s t
  flags : WritesFlag ft v s t
  bytes : SameBytes s t
  sr : t.sr = s.sr
  ends : EndsAt pc s t

/-- The `n` bytes of memory from `a` up take the low bytes of `v`; nothing else changes but the pc. -/
structure OnlyBytes (a : Word) (n : Nat) (v : Word) (pc : Word) (s t : State) : Prop where
  regs : SameRegs s t
  ca : SameCa s t
  flags : SameFlags s t
  bytes : WritesBytes a n v s t
  sr : t.sr = s.sr
  ends : EndsAt pc s t

/-- CA`bd` takes the value `v`; nothing else changes but the pc. -/
structure OnlyCa (bd : CaNum) (v : Word) (pc : Word) (s t : State) : Prop where
  regs : SameRegs s t
  ca : WritesCa bd v s t
  flags : SameFlags s t
  bytes : SameBytes s t
  sr : t.sr = s.sr
  ends : EndsAt pc s t

/-- Register `rt` takes `v` and the `n` bytes of memory from `a` up take the low bytes of `w`; nothing else changes but
the pc. -/
structure OnlyRegAndBytes (rt : RegNum) (v : Word) (a : Word) (n : Nat) (w : Word) (pc : Word) (s t : State) : Prop where
  regs : WritesReg rt v s t
  ca : SameCa s t
  flags : SameFlags s t
  bytes : WritesBytes a n w s t
  sr : t.sr = s.sr
  ends : EndsAt pc s t

/-! ### Exceptions -/

/-- What exception entry leaves: CA13 holds the pc of the raising instruction, no prefix is pending, and nothing else
changes; the pc is `pc` (R525, R526, R528). -/
abbrev Entered (pc : Word) (s t : State) : Prop := OnlyCa 13#4 s.pc pc s t

/-- The outcome is `raise E(info)` at the state `s` (R525): with `TRAP_MODE` terminal the run ends in `Trapped(E, info)`
with the state that entry leaves; a machine that continues goes on at `TRAP_TARGET`. -/
def Raises (e : Exn) (info : Word) (s : State) (o : Out) : Prop :=
  (s.launch.trapMode = .terminal → ∃ u, o = .fault (.trapped e info u) ∧ Entered s.pc s u) ∧
  (s.launch.trapMode = .handler →
    Completes o (Entered (Config.trapTarget e (s.caReg 0#64 12#4) s.mem) s))

/-! ### Memory -/

/-- The `k`th byte address of an access at `a` (R100: addresses wrap). -/
def nth (a : Word) (k : Nat) : Word := a + BitVec.ofNat 64 k

/-- An access of `n` bytes at `a` is misaligned, and that is a fault (R87). -/
def MisalignedAt (s : State) (a : Word) (n : Nat) : Prop := s.launch.misalignedMode = .fault ∧ a.toNat % n ≠ 0

/-- An access of `n` bytes at `a` passes the alignment check, but one of its bytes does not exist (R84). -/
def AbsentAt (s : State) (a : Word) (n : Nat) : Prop :=
  ¬MisalignedAt s a n ∧ ∃ k < n, s.present (nth a k) = false

/-- An access of `n` bytes at `a` passes both checks (R84). -/
def Accessible (s : State) (a : Word) (n : Nat) : Prop :=
  ¬MisalignedAt s a n ∧ ∀ k < n, s.present (nth a k) = true

/-- No byte of an access of `n` bytes at `a` is program text (R98). -/
def NotText (s : State) (a : Word) (n : Nat) : Prop := ∀ k < n, s.isText (nth a k) = false

/-- A store of `n` bytes at `a` is made: it passes the checks and meets no program text, and memory is canonical. -/
structure Storable (s : State) (a : Word) (n : Nat) : Prop where
  accessible : Accessible s a n
  notText : NotText s a n
  canonical : Memory.wf s.mem = true

/-- The 16-bit value at `a`, little-endian (R83). -/
def State.charAt (s : State) (a : Word) : BitVec 16 := s.byteAt (nth a 1) ++ s.byteAt a

/-- The 32-bit value at `a`, little-endian. -/
def State.halfAt (s : State) (a : Word) : BitVec 32 := s.charAt (nth a 2) ++ s.charAt a

/-- The 64-bit value at `a`, little-endian. -/
def State.wordAt (s : State) (a : Word) : BitVec 64 := s.halfAt (nth a 4) ++ s.halfAt a

/-! ### The invariant -/

/-- The invariant of the machine: memory is in its canonical form, and the launch is one the spec allows (`SP_REG` is not
R0; what exists and what is text are 64-bit addresses). -/
structure Invariant (s : State) : Prop where
  memory : Memory.wf s.mem = true
  launch : s.launch.wellFormed = true

/-! ### What the instructions name -/

/-- The flag register an instruction writes (R45). -/
def flagTarget : Instr → Option FlagNum
  | .tst ft _ => some ft
  | .cmpi ft _ _ => some ft
  | .cmp ft _ _ => some ft
  | _ => none

/-- The flag register an instruction reads (R45). -/
def flagSource : Instr → Option FlagNum
  | .beq fa _ | .bne fa _ | .bvs fa _ | .bvc fa _ | .bmi fa _ | .bpl fa _ | .bra fa _ | .bnv fa _
  | .bgt fa _ | .ble fa _ | .bge fa _ | .blt fa _ | .bhi fa _ | .bls fa _ | .bhs fa _ | .blo fa _
  | .lbeq fa _ | .lbne fa _ | .lbvs fa _ | .lbvc fa _ | .lbmi fa _ | .lbpl fa _ | .lbra fa _ | .lbnv fa _
  | .lbgt fa _ | .lble fa _ | .lbge fa _ | .lblt fa _ | .lbhi fa _ | .lbls fa _ | .lbhs fa _ | .lblo fa _ => some fa
  | _ => none

/-- The general register an instruction names as its target (R34); the stack pointer apart. -/
def regTarget : Instr → Option RegNum
  | .sxb rt _ | .sxc rt _ | .sxh rt _ | .addR rt _ _ | .andR rt _ _ | .shlR rt _ _ | .rolR rt _ _ | .shrR rt _ _
  | .rorR rt _ _ | .asrR rt _ _ | .shlI rt _ _ | .rolI rt _ _ | .shrI rt _ _ | .rorI rt _ _ | .asrI rt _ _
  | .addI rt _ _ | .subI rt _ _ | .mulI rt _ _ | .divI rt _ _ | .remI rt _ _ | .andI rt _ _ | .orI rt _ _
  | .eorI rt _ _ | .seqI rt _ _ | .sneI rt _ _ | .muluI rt _ _ | .divuI rt _ _ | .remuI rt _ _ | .sgtI rt _ _
  | .sleI rt _ _ | .sgeI rt _ _ | .sltI rt _ _ | .shiI rt _ _ | .slsI rt _ _ | .shsI rt _ _ | .sloI rt _ _
  | .lb rt _ _ | .lbu rt _ _ | .lc rt _ _ | .lcu rt _ _ | .lh rt _ _ | .lhu rt _ _ | .lw rt _ _ | .lea rt _ _
  | .lbx rt _ _ | .lbux rt _ _ | .lcx rt _ _ | .lcux rt _ _ | .lhx rt _ _ | .lhux rt _ _ | .lwx rt _ _
  | .leax rt _ _ | .cas rt _ _ _ | .pop rt => some rt
  | .dbnz ra _ => some ra
  | _ => none

/-- The instructions that move the stack pointer (R34). -/
def movesSp : Instr → Bool
  | .push _ | .pop _ | .pushc _ => true
  | _ => false

/-- The code address register an instruction names as its link (R35). -/
def caTarget : Instr → Option CaNum
  | .jalr bd _ => some bd
  | .jalr24 bd _ _ => some bd
  | _ => none

/-- The instructions that may store to memory, by R82 of spec/20_memory.md. -/
def mayStore : Instr → Bool
  | .sb _ _ _ | .sc _ _ _ | .sh _ _ _ | .sw _ _ _ | .sbx _ _ _ | .scx _ _ _ | .shx _ _ _ | .swx _ _ _
  | .push _ | .pushc _ | .cas _ _ _ _ => true
  | _ => false

/-- The instructions that may write the pc otherwise than by moving past themselves (R41). -/
def mayJump : Instr → Bool
  | .jalr _ _ | .jalr24 _ _ _ | .ret | .brz _ _ | .brnz _ _ | .brmi _ _ | .brpl _ _ | .dbnz _ _ => true
  | i => (flagSource i).isSome

/-- The prefix instructions (R148). -/
def isPrefix (i : Instr) : Bool := i.prefixBits.isSome || i == .trapv

/-- First bytes to which the source assigns no instruction: the list of R144. -/
def unassigned (op : Nat) : Bool :=
  (0x03 ≤ op && op ≤ 0x07) || (0x25 ≤ op && op ≤ 0x27) || (0x2B ≤ op && op ≤ 0x2F) || (0x35 ≤ op && op ≤ 0x37) ||
  (0x64 ≤ op && op ≤ 0x67) || (0x6D ≤ op && op ≤ 0x7F) || (0x90 ≤ op && op ≤ 0x96) || (0x98 ≤ op && op ≤ 0x9F) ||
  (0xAE ≤ op && op ≤ 0xE9) || (0xEB ≤ op && op ≤ 0xF0) || op == 0xF9 || (0xFB ≤ op && op ≤ 0xFF)

end Sys2Proof.Machine
end

