-- ==== Sys2Proof/Certificates/Slice0/Obligations.lean ====
section
/-! DEFINITION. The statements for the provers. A docstring names the rule of spec/ that a statement formalises, or, where
the statement rests on a decision of the spec (D<n> of spec/92_eei_decisions.md) or on a choice of this model, says so.
Every effect is given with its frame by the predicates of Sys2Proof/Safety.lean: `OnlyReg`, `OnlyPc` and their like say
what changes and that no other register, flag, byte of memory or bit of SR does, and that no prefix is left pending. -/

open Sys2Proof Sys2Proof.Machine

/-! ### Reset, decode and fetch -/

/-- What reset leaves (R570, decision D32): R0 and CA0 read as zero, no prefix and no interrupt input is pending. The pc, the
launch and the empty list of memory cells are this model's choices (log entries 1, 3, 4, 5, 10). -/
def Obligations.ResetLeaves : Prop :=
  State.reset.reg 0#8 = 0#64 ∧ (∀ len, State.reset.caReg len 0#4 = 0#64) ∧ NoPrefix State.reset ∧
  State.reset.irqPending = [] ∧ State.reset.pc = Config.resetPc ∧ State.reset.launch = Config.resetLaunch ∧
  State.reset.mem = []

/-- The state after reset satisfies the invariant that `StepKeepsInvariant` is about. This is the model's choice, not
a rule of the spec: the canonical form of memory and the empty list of cells are log entry 10, the launch after reset
is log entries 3 (`SP_REG` is R63), 4 (every address exists) and 5 (no program text). The spec gives only what the
invariant asks of a launch: `SP_REG` is in 1..255 (R33), addresses have 64 bits (R80). -/
def Obligations.ResetSatisfiesInvariant : Prop := Invariant State.reset

/-- The decoder reads words written out from the spec's own examples, one for each group of instructions: SXB R2,R1; ADD
R3,R1,R2; SHL R3,R1,#63; TST f1,R5; ADD R3,R1,#5; BEQ f0 with Disp5 = 4; LBNE f2 with Disp13 = 4093; BRZ R4 with Disp8 =
0Dh; JALR CA1,CA2; JALR24 CA1,123456h(CA0); LB R3,-1(R2); LB R4,(R2+R3); SW R1,(R2+R3); CAS R4,R2,R3,0[R1]; PUSHC #-2;
IMM24 #123456h; CLI. A sanity statement. -/
def Obligations.DecodesWordsOfTheSpec : Prop :=
  Encodes [0x01#8, 0x01#8, 0x02#8, 0x08#8] (.sxb 2#8 1#8) ∧
  Encodes [0x02#8, 0x01#8, 0x02#8, 0x03#8, 0x04#8] (.addR 3#8 1#8 2#8) ∧
  Encodes [0x02#8, 0x01#8, 0x3F#8, 0x03#8, 0x50#8] (.shlI 3#8 1#8 63#6) ∧
  Encodes [0x09#8, 0x05#8] (.tst 1#3 5#8) ∧
  Encodes [0x20#8, 0x01#8, 0x03#8, 0x05#8] (.addI 3#8 1#8 5#8) ∧
  Encodes [0x40#8, 0x20#8] (.beq 0#3 4#5) ∧
  Encodes [0x51#8, 0xEA#8, 0x7F#8] (.lbne 2#3 4093#13) ∧
  Encodes [0x68#8, 0x04#8, 0x0D#8] (.brz 4#8 0x0D#8) ∧
  Encodes [0x60#8, 0x21#8] (.jalr 1#4 2#4) ∧
  Encodes [0x61#8, 0x01#8, 0x56#8, 0x34#8, 0x12#8] (.jalr24 1#4 0#4 0x123456#24) ∧
  Encodes [0x80#8, 0x02#8, 0x03#8, 0xFF#8] (.lb 3#8 2#8 0xFF#8) ∧
  Encodes [0x88#8, 0x02#8, 0x03#8, 0x04#8] (.lbx 4#8 2#8 3#8) ∧
  Encodes [0xAB#8, 0x02#8, 0x03#8, 0x01#8] (.swx 1#8 2#8 3#8) ∧
  Encodes [0x97#8, 0x01#8, 0x02#8, 0x03#8, 0x04#8] (.cas 4#8 2#8 3#8 1#8) ∧
  Encodes [0xAD#8, 0xFE#8, 0xFF#8] (.pushc 0xFFFE#16) ∧
  Encodes [0xF3#8, 0x56#8, 0x34#8, 0x12#8] (.imm24 0x123456#24) ∧
  Encodes [0xFA#8] .cli

/-- Decode and encode agree: the bytes of an instruction, whatever follows them, decode to it and leave what follows.
For every instruction and every value of every operand. CINV, SWS and CINVx are taken as their one opcode byte, this
model's choice (log entry 16). -/
def Obligations.DecodeOfEncode : Prop := ∀ i, Encodes (encode i) i

/-- The other direction: bytes that decode to an instruction begin with its encoding, so no two encodings stand for
one instruction and no bit of the bytes read is ignored. CINV, SWS and CINVx are taken as their one opcode byte, this
model's choice (log entry 16). -/
def Obligations.EncodeOfDecode : Prop :=
  ∀ bytes i rest, decode bytes = .ok (i, rest) → bytes = encode i ++ rest

/-- The first byte alone determines the length, and what starts no instruction or has no listed function code decodes
to none (R121, R144, R145; decisions D18, D27): a first byte of the list of R144; a function code of the groups 01h
and 02h that the spec does not list; a shift by an immediate with one of its two `~` bits set. That A4h, A5h and ACh,
whose length R121 calls unknown, have length 1 is this model's choice (log entry 16). -/
def Obligations.IllegalEncodings : Prop :=
  (∀ op : Byte, opcodeLength op = none ↔ unassigned op.toNat = true) ∧
  (∀ i op rest, encode i = op :: rest → opcodeLength op = some i.length) ∧
  (∀ op rest, unassigned op.toNat = true → decode (op :: rest) = .error (.unassignedOpcode op)) ∧
  (∀ ra rt func rest, func.toNat ∉ [0x08, 0x09, 0x0A] →
    decode (0x01#8 :: ra :: rt :: func :: rest) = .error (.unassignedFunction 0x01#8 func)) ∧
  (∀ ra rb rt func rest,
    func.toNat ∉ [0x04, 0x20, 0x40, 0x41, 0x42, 0x43, 0x44, 0x50, 0x51, 0x52, 0x53, 0x54] →
    decode (0x02#8 :: ra :: rb :: rt :: func :: rest) = .error (.unassignedFunction 0x02#8 func)) ∧
  (∀ ra field rt func rest, func.toNat ∈ [0x50, 0x51, 0x52, 0x53, 0x54] → 64 ≤ field.toNat →
    decode (0x02#8 :: ra :: field :: rt :: func :: rest) = .error (.reservedBitsSet field))

/-- A step runs the decoded instruction: where no interrupt is to be taken and the bytes at the pc, all of which
exist, are the encoding of an instruction `i`, the step is `exec i`. Moving the pc past the instruction and clearing
the prefixes are part of `exec` (R60). CINV, SWS and CINVx are taken as their one opcode byte, this model's choice
(log entry 16). -/
def Obligations.StepRunsTheDecodedInstruction : Prop :=
  ∀ (s : State) (i : Instr), s.irqToTake = none → (∀ k < i.length, s.present (nth s.pc k) = true) →
    (∀ k (h : k < (encode i).length), s.byteAt (nth s.pc k) = (encode i)[k]) →
    step s = exec i s

/-- Where no interrupt is to be taken, fetch raises AccessFault(pc) if the byte at the pc, or another byte of the
instruction it begins, does not exist, and IllegalInstruction(pc) if it begins no instruction or its bytes have no
listed function code (R86, R144, R533; decisions D27, D40). That a machine which continues goes on at `TRAP_TARGET`
and changes nothing else is this model's choice (log entry 6). The length 1 of CINV, SWS and CINVx is log entry 16. -/
def Obligations.FetchRaises : Prop :=
  ∀ s : State, s.irqToTake = none →
    (s.present s.pc = false → Raises .accessFault s.pc s (step s)) ∧
    (s.present s.pc = true → unassigned (s.byteAt s.pc).toNat = true →
      Raises .illegalInstruction s.pc s (step s)) ∧
    (∀ len, s.present s.pc = true → opcodeLength (s.byteAt s.pc) = some len →
      ((∃ k < len, s.present (nth s.pc k) = false) → Raises .accessFault s.pc s (step s)) ∧
      ((∀ k < len, s.present (nth s.pc k) = true) →
        (∃ e, decode ((List.range len).map fun k => s.byteAt (nth s.pc k)) = .error e) →
        Raises .illegalInstruction s.pc s (step s)))

/-! ### Whole-machine rules -/

/-- Every step keeps the invariant: memory stays in its canonical form, inside the 64-bit address space, and `SP_REG` stays a
register other than R0. The canonical form is this model's (log entry 10). -/
def Obligations.StepKeepsInvariant : Prop :=
  ∀ s t, Invariant s → step s = .next t → Invariant t

/-- Exceptions are precise (R525, R526, R528; decision D29): a step that ends in `Trapped(E, info)` leaves CA13 holding the
address of the raising instruction, no prefix pending, and everything else as the step found it; the machine is one whose
`TRAP_MODE` is terminal; and Break, Overflow and IllegalInstruction carry the pc. -/
def Obligations.ExceptionsArePrecise : Prop :=
  ∀ s e info u, step s = .fault (.trapped e info u) →
    Entered s.pc s u ∧ s.launch.trapMode = .terminal ∧
    (e = .brk ∨ e = .overflow ∨ e = .illegalInstruction → info = s.pc)

/-- No step changes the parameters of the launch or the interrupt inputs, whether it goes on or ends in an exception.
This is the model's choice: the launch is a record in State (log entry 21), and the inputs stay as the environment
holds them, the one taken by an interrupt included (log entry 7). The spec gives that the launch supplies the
parameters and that a step reads the inputs (R7, R56, R571). -/
def Obligations.StepKeepsLaunchAndInputs : Prop :=
  ∀ s t, (step s = .next t ∨ ∃ e info, step s = .fault (.trapped e info t)) →
    t.launch = s.launch ∧ t.irqPending = s.irqPending

/-- SR: no step changes bits 14 to 0 (the reserved and unnamed bits, FXE and CPL), and a step that takes no interrupt
changes no bit of the upper half and never sets IM (R46, R48 to R51; decisions D30, D31, D39). That an exception taken
by a machine which continues leaves SR as it is, is this model's choice (log entry 6). -/
def Obligations.StatusRegisterFields : Prop :=
  ∀ s t, step s = .next t →
    (∀ k < 15, t.sr.getLsbD k = s.sr.getLsbD k) ∧
    (s.irqToTake = none → t.sr.extractLsb' 16 16 = s.sr.extractLsb' 16 16 ∧ (s.im = false → t.im = false))

/-- The flag registers (R45). TST, CMP and CMPI write all four bits of the one flag register they name: what they write
does not depend on what the flag registers held. No other instruction writes a flag register. The 32 conditional branches
read the one flag register they name, and no other instruction reads one: if two states differ in other flag registers
only, the instruction has the same outcome in both, the flag registers apart. -/
def Obligations.FlagRegisterUse : Prop :=
  (∀ i s t j, exec i s = .next t → flagTarget i ≠ some j → t.flag j = s.flag j) ∧
  (∀ i s fs t t' j, exec i s = .next t → exec i { s with flags := fs } = .next t' → flagTarget i = some j →
    t'.flag j = t.flag j) ∧
  (∀ i s fs, (∀ j, flagSource i = some j → ({ s with flags := fs } : State).flag j = s.flag j) →
    (∀ t, exec i s = .next t → ∃ t', exec i { s with flags := fs } = .next t' ∧
      { t' with flags := s.flags } = { t with flags := s.flags }) ∧
    (∀ r, exec i s = .refused r → exec i { s with flags := fs } = .refused r) ∧
    (∀ e info u, exec i s = .fault (.trapped e info u) →
      exec i { s with flags := fs } = .fault (.trapped e info { u with flags := fs })))

/-- The general registers: an instruction that goes on changes none but its target and, for PUSH, PUSHC and POP, the
stack pointer; and R0 reads as zero after it whatever was written to it (R32, R34; decision D2). That an exception
taken by a machine which continues changes no general register is this model's choice (log entry 6). -/
def Obligations.GeneralRegisterWriters : Prop :=
  ∀ i s t, exec i s = .next t → t.reg 0#8 = 0#64 ∧
    ∀ r, regTarget i ≠ some r → (movesSp i = true → r ≠ s.launch.spReg) → t.reg r = s.reg r

/-- The code address registers: an instruction that goes on changes none but its link register (R37 to R39), and CA13 where it
raised an exception into a handler (R526); CA0 reads as zero (decision D5). -/
def Obligations.CodeAddressRegisterWriters : Prop :=
  ∀ i s t c, exec i s = .next t → c ≠ 15#4 → caTarget i ≠ some c →
    (c = 13#4 → s.launch.trapMode = .terminal) → (∀ len, t.caReg len c = s.caReg len c ∧ t.caReg len 0#4 = 0#64)

/-- Memory: only the stores, PUSH, PUSHC and CAS change a byte (R82), and no byte of the program text changes (R98,
decision D34). That an exception taken by a machine which continues changes no memory is this model's choice (log
entry 6); which bytes are text is what the launch declares (log entry 5). -/
def Obligations.MemoryWriters : Prop :=
  ∀ i s t, exec i s = .next t →
    (mayStore i = false → SameBytes s t) ∧
    (Memory.wf s.mem = true → ∀ a, s.isText a = true → t.byteAt a = s.byteAt a)

/-- The end of an instruction that is no exception: with `TRAP_MODE` terminal, an instruction that is no branch, jump or return
moves on to the byte after it (R41; decision D4: modulo 2^64); and a target leaves no prefix pending (R493, R60; decision
D16). -/
def Obligations.EndOfInstruction : Prop :=
  ∀ i s t, exec i s = .next t →
    (s.launch.trapMode = .terminal → mayJump i = false → t.pc = s.pc + BitVec.ofNat 64 i.length) ∧
    (isPrefix i = false → NoPrefix t)

/-- The admission of prefixes (R152, R483, R131, R493; decisions D14 to D16, D28): an instruction that is no prefix is refused
where a pending prefix is not one it accepts or its constant would exceed 64 bits. -/
def Obligations.PrefixAdmission : Prop :=
  ∀ i s, isPrefix i = false → i.admits (s.ipfx.map ImmPrefix.bits) s.tpfx = false → Refuses (exec i s)

/-- An interrupt is to be taken exactly if no prefix is pending and some input is pending that is one of `IRQ_SOURCES`
and is not a maskable one held off by IM; what is taken is such an input (R60 step 1, R530, R531, R533; decisions D16,
D30). That a source carries whether IM holds it off, and that the inputs are a list, are this model's choices (log
entry 7). -/
def Obligations.InterruptAdmission : Prop :=
  ∀ s : State,
    (∀ src, s.irqToTake = some src →
      NoPrefix s ∧ src ∈ s.irqPending ∧ src ∈ s.launch.irqSources ∧ (src.maskable = true → s.im = false)) ∧
    (s.irqToTake = none →
      ¬NoPrefix s ∨ ∀ src ∈ s.irqPending, src ∈ s.launch.irqSources → src.maskable = true ∧ s.im = true)

/-- Interrupt entry (R532, R51; decision D30): CA14 takes the pc, the upper half of SR a copy of the lower, IM is set,
the pc becomes `IRQ_TARGET`, and nothing else changes; without `IRQ_TARGET` it is refused. That the input taken stays
pending is this model's choice (log entry 7), not R532's. -/
def Obligations.InterruptEntry : Prop :=
  ∀ s src, s.irqToTake = some src →
    (s.launch.irqTargetSupplied = false → step s = .refused .interruptWithoutTarget) ∧
    (s.launch.irqTargetSupplied = true → Completes (step s) fun t =>
      SameRegs s t ∧ WritesCa 14#4 s.pc s t ∧ SameFlags s t ∧ SameBytes s t ∧
      t.sr.extractLsb' 16 16 = s.sr.extractLsb' 0 16 ∧ t.im = true ∧
      (∀ k < 15, t.sr.getLsbD k = s.sr.getLsbD k) ∧
      EndsAt (Config.irqTarget src (s.caReg 0#64 12#4) s.mem) s t)

/-! ### Shared operations -/

/-- The flags of a subtraction (R200; decision D7): N is the sign of the difference, Z says that it is zero, C that the first
operand is lower, V that the exact signed difference does not fit 64 bits. -/
def Obligations.FlagsOfSubtraction : Prop :=
  ∀ a b : Word,
    flagN (flagsSub a b) = (a - b).msb ∧
    (flagZ (flagsSub a b) = true ↔ a = b) ∧
    (flagC (flagsSub a b) = true ↔ a.toNat < b.toNat) ∧
    (flagV (flagsSub a b) = true ↔ (a - b).toInt ≠ a.toInt - b.toInt)

/-- What the sixteen conditions mean after `flags_sub(a, b)`: the last column of R201's table (decisions D7, D8). -/
def Obligations.ConditionsCompareOperands : Prop :=
  ∀ a b : Word,
    (condHolds .eq (flagsSub a b) = true ↔ a = b) ∧
    (condHolds .ne (flagsSub a b) = true ↔ a ≠ b) ∧
    (condHolds .vs (flagsSub a b) = true ↔ (a - b).toInt ≠ a.toInt - b.toInt) ∧
    (condHolds .vc (flagsSub a b) = true ↔ (a - b).toInt = a.toInt - b.toInt) ∧
    (condHolds .mi (flagsSub a b) = true ↔ (a - b).msb = true) ∧
    (condHolds .pl (flagsSub a b) = true ↔ (a - b).msb = false) ∧
    condHolds .ra (flagsSub a b) = true ∧
    condHolds .nv (flagsSub a b) = false ∧
    (condHolds .gt (flagsSub a b) = true ↔ b.toInt < a.toInt) ∧
    (condHolds .le (flagsSub a b) = true ↔ a.toInt ≤ b.toInt) ∧
    (condHolds .ge (flagsSub a b) = true ↔ b.toInt ≤ a.toInt) ∧
    (condHolds .lt (flagsSub a b) = true ↔ a.toInt < b.toInt) ∧
    (condHolds .hi (flagsSub a b) = true ↔ b.toNat < a.toNat) ∧
    (condHolds .ls (flagsSub a b) = true ↔ a.toNat ≤ b.toNat) ∧
    (condHolds .hs (flagsSub a b) = true ↔ b.toNat ≤ a.toNat) ∧
    (condHolds .lo (flagsSub a b) = true ↔ a.toNat < b.toNat)

/-- The constant K (R131; decisions D13, D14): without a prefix the field F, sign-extended; with a prefix P the signed number
that P above F denotes; none where the two exceed 64 bits. -/
def Obligations.ConstantFormation : Prop :=
  ∀ (w : Nat) (f : BitVec w),
    (w ≤ 64 → ∃ k, immConst none f = some k ∧ k.toInt = f.toInt) ∧
    (∀ p : ImmPrefix, p.bits + w ≤ 64 →
      ∃ k, immConst (some p) f = some k ∧ k.toInt = p.value.toInt * 2 ^ w + f.toNat) ∧
    (∀ p : ImmPrefix, 64 < p.bits + w → immConst (some p) f = none)

/-- Memories in canonical form that read the same at every address are equal. The canonical form is this model's (log entry
10). -/
def Obligations.MemoryIsExtensional : Prop :=
  ∀ m m' : Memory, Memory.wf m = true → Memory.wf m' = true →
    (∀ a < 2 ^ 64, Memory.read m a = Memory.read m' a) → m = m'

/-- A value written to memory is read back at its width (R84, R85), and a write keeps the canonical form. The
canonical form is this model's (log entry 10). -/
def Obligations.WrittenValueIsReadBack : Prop :=
  ∀ (m : Memory) (a : Word) (n : Nat) (v : BitVec (8 * n)), Memory.wf m = true → n ≤ 8 →
    Memory.readLE (Memory.writeLE m a n v) a n = v ∧ Memory.wf (Memory.writeLE m a n v) = true

/-! ### Compare and test -/

/-- TST, CMP and CMPI (R202 to R204; the flags' meaning is decision D7, the sign extension of CMPI's immediate D13):
the one flag register they name takes the flags of the subtraction; nothing else changes. Stated where no prefix is
pending; what happens where one is stands in `PrefixAdmission`. -/
def Obligations.CompareAndTest : Prop :=
  ∀ (ft : FlagNum) (ra rb : RegNum) (imm : BitVec 8) (s : State), NoPrefix s →
    Completes (exec (.tst ft ra) s) (OnlyFlag ft (flagsSub (s.reg ra) 0#64) (s.pc + 2#64) s) ∧
    Completes (exec (.cmp ft ra rb) s) (OnlyFlag ft (flagsSub (s.reg ra) (s.reg rb)) (s.pc + 3#64) s) ∧
    Completes (exec (.cmpi ft ra imm) s) (OnlyFlag ft (flagsSub (s.reg ra) (imm.signExtend 64)) (s.pc + 3#64) s)

/-! ### Arithmetic and logic -/

/-- SXB, SXC and SXH (R230 to R232): their bytes; bits 8, 16 or 32 to 63 of the result are the sign extension of bit 7, 15
or 31; no flag and nothing else changes; they raise nothing and accept no prefix. For a target other than R0; what
happens to R0 is decision D2 and stands in `GeneralRegisterWriters`. -/
def Obligations.SignExtensions : Prop :=
  ∀ rt ra : RegNum,
    (Encodes [0x01#8, ra, rt, 0x08#8] (.sxb rt ra) ∧ Encodes [0x01#8, ra, rt, 0x09#8] (.sxc rt ra) ∧
      Encodes [0x01#8, ra, rt, 0x0A#8] (.sxh rt ra)) ∧
    (RefusesPrefixes (.sxb rt ra) ∧ RefusesPrefixes (.sxc rt ra) ∧ RefusesPrefixes (.sxh rt ra)) ∧
    ∀ s : State, NoPrefix s →
      (Completes (exec (.sxb rt ra) s) fun t => OnlyReg rt (t.reg rt) (s.pc + 4#64) s t ∧
        (rt ≠ 0#8 → ∀ k < 64, (t.reg rt).getLsbD k = (s.reg ra).getLsbD (min k 7))) ∧
      (Completes (exec (.sxc rt ra) s) fun t => OnlyReg rt (t.reg rt) (s.pc + 4#64) s t ∧
        (rt ≠ 0#8 → ∀ k < 64, (t.reg rt).getLsbD k = (s.reg ra).getLsbD (min k 15))) ∧
      (Completes (exec (.sxh rt ra) s) fun t => OnlyReg rt (t.reg rt) (s.pc + 4#64) s t ∧
        (rt ≠ 0#8 → ∀ k < 64, (t.reg rt).getLsbD k = (s.reg ra).getLsbD (min k 31)))

/-- AND, register form (R235): its bytes; bit by bit the conjunction of the two registers; nothing else changes; it raises
nothing and accepts no prefix. For a target other than R0, as in `SignExtensions`. -/
def Obligations.AndRegisters : Prop :=
  ∀ rt ra rb : RegNum,
    Encodes [0x02#8, ra, rb, rt, 0x20#8] (.andR rt ra rb) ∧ RefusesPrefixes (.andR rt ra rb) ∧
    ∀ s : State, NoPrefix s → Completes (exec (.andR rt ra rb) s) fun t =>
      OnlyReg rt (t.reg rt) (s.pc + 5#64) s t ∧
      (rt ≠ 0#8 → ∀ k < 64, (t.reg rt).getLsbD k = ((s.reg ra).getLsbD k && (s.reg rb).getLsbD k))

/-- ADD and ADD# without TRAPV (R233, R234, R256; decisions D13, D14, D38): the sum modulo 2^64; no overflow is
recorded. ADD# takes its constant K with a pending immediate prefix. ADD is stated where none is pending; what happens
where one is stands in `PrefixAdmission`. -/
def Obligations.AddWraps : Prop :=
  ∀ (rt ra rb : RegNum) (imm : BitVec 8) (s : State), s.tpfx = false →
    (s.ipfx = none → Completes (exec (.addR rt ra rb) s) (OnlyReg rt (s.reg ra + s.reg rb) (s.pc + 5#64) s)) ∧
    (∀ k, immConst s.ipfx imm = some k →
      Completes (exec (.addI rt ra imm) s) (OnlyReg rt (s.reg ra + k) (s.pc + 4#64) s))

/-- ADD and ADD# under TRAPV (R233, R234, R522; decision D28): they raise Overflow(pc) exactly if the signed sum does
not fit 64 bits, and otherwise do what they do without it. ADD is stated where no immediate prefix is pending. That a
machine which continues goes on at `TRAP_TARGET` and changes nothing else is this model's choice (log entry 6). -/
def Obligations.AddUnderTrapv : Prop :=
  ∀ (rt ra rb : RegNum) (imm : BitVec 8) (s : State), s.tpfx = true →
    (s.ipfx = none →
      (((s.reg ra).toInt + (s.reg rb).toInt = (s.reg ra + s.reg rb).toInt) →
        Completes (exec (.addR rt ra rb) s) (OnlyReg rt (s.reg ra + s.reg rb) (s.pc + 5#64) s)) ∧
      (((s.reg ra).toInt + (s.reg rb).toInt ≠ (s.reg ra + s.reg rb).toInt) →
        Raises .overflow s.pc s (exec (.addR rt ra rb) s))) ∧
    (∀ k, immConst s.ipfx imm = some k →
      (((s.reg ra).toInt + k.toInt = (s.reg ra + k).toInt) →
        Completes (exec (.addI rt ra imm) s) (OnlyReg rt (s.reg ra + k) (s.pc + 4#64) s)) ∧
      (((s.reg ra).toInt + k.toInt ≠ (s.reg ra + k).toInt) → Raises .overflow s.pc s (exec (.addI rt ra imm) s)))

/-- SUB#, MUL#, MULU#, AND#, OR# and EOR# (R236 to R238, R241 to R243, R258; decisions D13, D14, D20). -/
def Obligations.ImmediateArithmetic : Prop :=
  ∀ (rt ra : RegNum) (imm : BitVec 8) (s : State) (k : Word), s.tpfx = false → immConst s.ipfx imm = some k →
    Completes (exec (.subI rt ra imm) s) (OnlyReg rt (s.reg ra - k) (s.pc + 4#64) s) ∧
    Completes (exec (.mulI rt ra imm) s)
      (OnlyReg rt (BitVec.ofInt 64 ((s.reg ra).toInt * k.toInt)) (s.pc + 4#64) s) ∧
    Completes (exec (.muluI rt ra imm) s)
      (OnlyReg rt (BitVec.ofNat 64 ((s.reg ra).toNat * k.toNat)) (s.pc + 4#64) s) ∧
    Completes (exec (.andI rt ra imm) s) (OnlyReg rt (s.reg ra &&& k) (s.pc + 4#64) s) ∧
    Completes (exec (.orI rt ra imm) s) (OnlyReg rt (s.reg ra ||| k) (s.pc + 4#64) s) ∧
    Completes (exec (.eorI rt ra imm) s) (OnlyReg rt (s.reg ra ^^^ k) (s.pc + 4#64) s)

/-- DIV# and REM# (R239, R240, R257; decisions D20, D21): refused for K = 0 and for -2^63 by -1; otherwise a quotient q and a
remainder r with a = q b + r, |r| < |b|, r zero or of the dividend's sign. -/
def Obligations.SignedDivision : Prop :=
  ∀ (rt ra : RegNum) (imm : BitVec 8) (s : State) (k : Word), s.tpfx = false → immConst s.ipfx imm = some k →
    (k = 0#64 ∨ (s.reg ra).toInt = -2 ^ 63 ∧ k.toInt = -1 →
      exec (.divI rt ra imm) s = .refused .divisionCorner ∧ exec (.remI rt ra imm) s = .refused .divisionCorner) ∧
    (k ≠ 0#64 → ¬((s.reg ra).toInt = -2 ^ 63 ∧ k.toInt = -1) → ∃ q r : Word,
      (s.reg ra).toInt = q.toInt * k.toInt + r.toInt ∧ r.toInt.natAbs < k.toInt.natAbs ∧
      (0 ≤ (s.reg ra).toInt → 0 ≤ r.toInt) ∧ ((s.reg ra).toInt ≤ 0 → r.toInt ≤ 0) ∧
      Completes (exec (.divI rt ra imm) s) (OnlyReg rt q (s.pc + 4#64) s) ∧
      Completes (exec (.remI rt ra imm) s) (OnlyReg rt r (s.pc + 4#64) s))

/-- DIVU# and REMU# (R244, R245, R257; decisions D20, D21): refused for K = 0; otherwise a quotient q and a remainder r with
a = q b + r and r < b, all unsigned. -/
def Obligations.UnsignedDivision : Prop :=
  ∀ (rt ra : RegNum) (imm : BitVec 8) (s : State) (k : Word), s.tpfx = false → immConst s.ipfx imm = some k →
    (k = 0#64 →
      exec (.divuI rt ra imm) s = .refused .divisionCorner ∧ exec (.remuI rt ra imm) s = .refused .divisionCorner) ∧
    (k ≠ 0#64 → ∃ q r : Word, (s.reg ra).toNat = q.toNat * k.toNat + r.toNat ∧ r.toNat < k.toNat ∧
      Completes (exec (.divuI rt ra imm) s) (OnlyReg rt q (s.pc + 4#64) s) ∧
      Completes (exec (.remuI rt ra imm) s) (OnlyReg rt r (s.pc + 4#64) s))

/-- The ten set instructions (R246 to R255, R259; decision D19): 1 if the comparison of x[Ra] with K holds, else 0. SGT, SLE,
SGE and SLT compare signed, SHI, SLS, SHS and SLO unsigned. -/
def Obligations.SetInstructions : Prop :=
  ∀ (rt ra : RegNum) (imm : BitVec 8) (s : State) (k : Word), s.tpfx = false → immConst s.ipfx imm = some k →
    let sets (i : Instr) (p : Prop) : Prop :=
      (p → Completes (exec i s) (OnlyReg rt 1#64 (s.pc + 4#64) s)) ∧
      (¬p → Completes (exec i s) (OnlyReg rt 0#64 (s.pc + 4#64) s))
    sets (.seqI rt ra imm) (s.reg ra = k) ∧
    sets (.sneI rt ra imm) (s.reg ra ≠ k) ∧
    sets (.sgtI rt ra imm) ((s.reg ra).toInt > k.toInt) ∧
    sets (.sleI rt ra imm) ((s.reg ra).toInt ≤ k.toInt) ∧
    sets (.sgeI rt ra imm) ((s.reg ra).toInt ≥ k.toInt) ∧
    sets (.sltI rt ra imm) ((s.reg ra).toInt < k.toInt) ∧
    sets (.shiI rt ra imm) ((s.reg ra).toNat > k.toNat) ∧
    sets (.slsI rt ra imm) ((s.reg ra).toNat ≤ k.toNat) ∧
    sets (.shsI rt ra imm) ((s.reg ra).toNat ≥ k.toNat) ∧
    sets (.sloI rt ra imm) ((s.reg ra).toNat < k.toNat)

/-! ### Shifts and rotates -/

/-- The immediate shifts and rotates, bit by bit (R292, R294, R296, R298, R300), for n = Imm6: their bytes; SHL shifts left
and SHR right with zeros entering, ROL and ROR rotate, ASR shifts right with copies of bit 63 entering. Nothing else
changes. For a target other than R0, as in `SignExtensions`. -/
def Obligations.ShiftImmediates : Prop :=
  ∀ (rt ra : RegNum) (imm : BitVec 6),
    (Encodes [0x02#8, ra, 0#2 ++ imm, rt, 0x50#8] (.shlI rt ra imm) ∧
      Encodes [0x02#8, ra, 0#2 ++ imm, rt, 0x51#8] (.rolI rt ra imm) ∧
      Encodes [0x02#8, ra, 0#2 ++ imm, rt, 0x52#8] (.shrI rt ra imm) ∧
      Encodes [0x02#8, ra, 0#2 ++ imm, rt, 0x53#8] (.rorI rt ra imm) ∧
      Encodes [0x02#8, ra, 0#2 ++ imm, rt, 0x54#8] (.asrI rt ra imm)) ∧
    ∀ s : State, NoPrefix s →
      let bits (i : Instr) (bit : Nat → Bool) : Prop := Completes (exec i s) fun t =>
        OnlyReg rt (t.reg rt) (s.pc + 5#64) s t ∧ (rt ≠ 0#8 → ∀ k < 64, (t.reg rt).getLsbD k = bit k)
      let x := (s.reg ra).getLsbD
      let n := imm.toNat
      bits (.shlI rt ra imm) (fun k => if k < n then false else x (k - n)) ∧
      bits (.rolI rt ra imm) (fun k => x ((k + 64 - n) % 64)) ∧
      bits (.shrI rt ra imm) (fun k => if k + n < 64 then x (k + n) else false) ∧
      bits (.rorI rt ra imm) (fun k => x ((k + n) % 64)) ∧
      bits (.asrI rt ra imm) (fun k => if k + n < 64 then x (k + n) else x 63)

/-- The register shifts and rotates, as numbers (R290, R291, R293, R295, R297, R299; decision D17 takes the low 6 bits of x[Rb] as
the amount n): SHL multiplies by 2^n modulo 2^64, SHR and ASR divide by 2^n, unsigned and signed, rounding down; ROL and
ROR rotate by n. -/
def Obligations.ShiftRegisters : Prop :=
  ∀ (rt ra rb : RegNum) (s : State), NoPrefix s →
    let n := (s.reg rb).toNat % 64
    let leaves (i : Instr) (v : Word) : Prop := Completes (exec i s) (OnlyReg rt v (s.pc + 5#64) s)
    leaves (.shlR rt ra rb) (BitVec.ofNat 64 ((s.reg ra).toNat * 2 ^ n)) ∧
    leaves (.shrR rt ra rb) (BitVec.ofNat 64 ((s.reg ra).toNat / 2 ^ n)) ∧
    leaves (.asrR rt ra rb) (BitVec.ofInt 64 ((s.reg ra).toInt / 2 ^ n)) ∧
    leaves (.rolR rt ra rb) ((s.reg ra).rotateLeft n) ∧
    leaves (.rorR rt ra rb) ((s.reg ra).rotateRight n)

/-! ### Branches and jumps -/

/-- The sixteen short branches (R320 to R337): where the condition on the bits of f[Fa] holds, to the PC plus Disp5, else to the
byte after the branch; nothing else changes. What the PC is, is decision D9: the byte after the branch, or, at the other
value of `PCREL_BASE`, the branch itself. The conditions on several bits are decisions D7 and D8. -/
def Obligations.ShortBranches : Prop :=
  ∀ (fa : FlagNum) (disp : BitVec 5) (s : State), NoPrefix s →
    let n := (s.flag fa).getLsbD 3
    let v := (s.flag fa).getLsbD 2
    let c := (s.flag fa).getLsbD 1
    let z := (s.flag fa).getLsbD 0
    let base := if s.launch.pcrelBase = .nextInsn then s.pc + 2#64 else s.pc
    let branches (i : Instr) (taken : Bool) : Prop := Completes (exec i s)
      (OnlyPc (if taken then base + disp.signExtend 64 else s.pc + 2#64) s)
    branches (.beq fa disp) z ∧ branches (.bne fa disp) (!z) ∧ branches (.bvs fa disp) v ∧
    branches (.bvc fa disp) (!v) ∧ branches (.bmi fa disp) n ∧ branches (.bpl fa disp) (!n) ∧
    branches (.bra fa disp) true ∧ branches (.bnv fa disp) false ∧ branches (.bgt fa disp) (!z && n == v) ∧
    branches (.ble fa disp) (z || n != v) ∧ branches (.bge fa disp) (n == v) ∧ branches (.blt fa disp) (n != v) ∧
    branches (.bhi fa disp) (!c && !z) ∧ branches (.bls fa disp) (c || z) ∧ branches (.bhs fa disp) (!c) ∧
    branches (.blo fa disp) c

/-- The sixteen long branches (R338 to R353, R364), as the short ones with Disp13 and 3 bytes (decisions D7 to D9). -/
def Obligations.LongBranches : Prop :=
  ∀ (fa : FlagNum) (disp : BitVec 13) (s : State), NoPrefix s →
    let n := (s.flag fa).getLsbD 3
    let v := (s.flag fa).getLsbD 2
    let c := (s.flag fa).getLsbD 1
    let z := (s.flag fa).getLsbD 0
    let base := if s.launch.pcrelBase = .nextInsn then s.pc + 3#64 else s.pc
    let branches (i : Instr) (taken : Bool) : Prop := Completes (exec i s)
      (OnlyPc (if taken then base + disp.signExtend 64 else s.pc + 3#64) s)
    branches (.lbeq fa disp) z ∧ branches (.lbne fa disp) (!z) ∧ branches (.lbvs fa disp) v ∧
    branches (.lbvc fa disp) (!v) ∧ branches (.lbmi fa disp) n ∧ branches (.lbpl fa disp) (!n) ∧
    branches (.lbra fa disp) true ∧ branches (.lbnv fa disp) false ∧ branches (.lbgt fa disp) (!z && n == v) ∧
    branches (.lble fa disp) (z || n != v) ∧ branches (.lbge fa disp) (n == v) ∧ branches (.lblt fa disp) (n != v) ∧
    branches (.lbhi fa disp) (!c && !z) ∧ branches (.lbls fa disp) (c || z) ∧ branches (.lbhs fa disp) (!c) ∧
    branches (.lblo fa disp) c

/-- The branches on a register (R354 to R357; decisions D9, D24): on x[Ra] zero, not zero, negative, and positive or zero. -/
def Obligations.RegisterBranches : Prop :=
  ∀ (ra : RegNum) (disp : BitVec 8) (s : State), NoPrefix s →
    let base := if s.launch.pcrelBase = .nextInsn then s.pc + 3#64 else s.pc
    let branches (i : Instr) (p : Prop) : Prop :=
      (p → Completes (exec i s) (OnlyPc (base + disp.signExtend 64) s)) ∧
      (¬p → Completes (exec i s) (OnlyPc (s.pc + 3#64) s))
    branches (.brz ra disp) (s.reg ra = 0#64) ∧ branches (.brnz ra disp) (s.reg ra ≠ 0#64) ∧
    branches (.brmi ra disp) ((s.reg ra).toInt < 0) ∧ branches (.brpl ra disp) (0 ≤ (s.reg ra).toInt)

/-- DBNZ (R358; decisions D9, D24): x[Ra] is decremented in either case, and the branch is taken where the new value is not zero;
with Ra = 0 it is always taken and no register changes. -/
def Obligations.DecrementAndBranch : Prop :=
  ∀ (ra : RegNum) (disp : BitVec 8) (s : State), NoPrefix s →
    let base := if s.launch.pcrelBase = .nextInsn then s.pc + 3#64 else s.pc
    (s.reg ra ≠ 1#64 →
      Completes (exec (.dbnz ra disp) s) (OnlyReg ra (s.reg ra - 1#64) (base + disp.signExtend 64) s)) ∧
    (s.reg ra = 1#64 → Completes (exec (.dbnz ra disp) s) (OnlyReg ra 0#64 (s.pc + 3#64) s)) ∧
    Completes (exec (.dbnz 0#8 disp) s) (OnlyPc (base + disp.signExtend 64) s)

/-- JALR and JALR24 (R359, R360; decisions D5, D9, D22): to the base plus the displacement, the base being 0 for CA0, for CA15 the
address after the instruction (or, at the other value of `PCREL_BASE`, the instruction's), else the register; the link
register takes the address after the instruction, except CA0 and CA15, which take nothing. The base is read before the
link is written. -/
def Obligations.JumpAndLink : Prop :=
  ∀ (bd bs : CaNum) (disp : BitVec 24) (s : State), NoPrefix s →
    let base (len : Word) : Word :=
      if bs = 0#4 then 0#64
      else if bs = 15#4 then (if s.launch.pcrelBase = .nextInsn then s.pc + len else s.pc)
      else s.caReg 0#64 bs
    Completes (exec (.jalr bd bs) s) (OnlyCa bd (s.pc + 2#64) (base 2#64) s) ∧
    Completes (exec (.jalr24 bd bs disp) s) (OnlyCa bd (s.pc + 5#64) (base 5#64 + disp.signExtend 64) s)

/-- A call and its return (R359, R361, R362; decisions D22, D23): RET goes to the address that JALR CA1 left, and nothing else
changes. -/
def Obligations.ReturnFromSubroutine : Prop :=
  ∀ s : State, NoPrefix s →
    Completes (exec .ret s) (OnlyPc (s.caReg 0#64 1#4) s) ∧
    ∀ bs t, exec (.jalr 1#4 bs) s = .next t → Completes (exec .ret t) (OnlyPc (s.pc + 2#64) t)

/-! ### Loads -/

/-- The displacement loads (R390, R392 to R399; decisions D11, D13, D14, D25): where the access succeeds, Rt takes the value at
x[Ra] + K, sign-extended, or zero-extended in the U forms; nothing else changes. -/
def Obligations.Loads : Prop :=
  ∀ (rt ra : RegNum) (disp : BitVec 8) (s : State) (k : Word), s.tpfx = false → immConst s.ipfx disp = some k →
    let ea := s.reg ra + k
    let loads (i : Instr) (v : Word) : Prop := Completes (exec i s) (OnlyReg rt v (s.pc + 4#64) s)
    (Accessible s ea 1 →
      loads (.lb rt ra disp) ((s.byteAt ea).signExtend 64) ∧ loads (.lbu rt ra disp) ((s.byteAt ea).setWidth 64)) ∧
    (Accessible s ea 2 →
      loads (.lc rt ra disp) ((s.charAt ea).signExtend 64) ∧ loads (.lcu rt ra disp) ((s.charAt ea).setWidth 64)) ∧
    (Accessible s ea 4 →
      loads (.lh rt ra disp) ((s.halfAt ea).signExtend 64) ∧ loads (.lhu rt ra disp) ((s.halfAt ea).setWidth 64)) ∧
    (Accessible s ea 8 → loads (.lw rt ra disp) (s.wordAt ea))

/-- The indexed loads (R391, R392, R401 to R407; decisions D11, D14, D25): as the displacement loads, at x[Ra] + x[Rb] + K, K the
value of a pending immediate prefix, or 0. -/
def Obligations.IndexedLoads : Prop :=
  ∀ (rt ra rb : RegNum) (s : State) (k : Word), s.tpfx = false → immConst s.ipfx (0#0) = some k →
    let ea := s.reg ra + s.reg rb + k
    let loads (i : Instr) (v : Word) : Prop := Completes (exec i s) (OnlyReg rt v (s.pc + 4#64) s)
    (s.ipfx = none → k = 0#64) ∧
    (Accessible s ea 1 →
      loads (.lbx rt ra rb) ((s.byteAt ea).signExtend 64) ∧ loads (.lbux rt ra rb) ((s.byteAt ea).setWidth 64)) ∧
    (Accessible s ea 2 →
      loads (.lcx rt ra rb) ((s.charAt ea).signExtend 64) ∧ loads (.lcux rt ra rb) ((s.charAt ea).setWidth 64)) ∧
    (Accessible s ea 4 →
      loads (.lhx rt ra rb) ((s.halfAt ea).signExtend 64) ∧ loads (.lhux rt ra rb) ((s.halfAt ea).setWidth 64)) ∧
    (Accessible s ea 8 → loads (.lwx rt ra rb) (s.wordAt ea))

/-- LEA and LEAx (R400, R408; decisions D14, D25): the address itself, with no access to memory and so no exception. -/
def Obligations.LoadEffectiveAddress : Prop :=
  ∀ (rt ra rb : RegNum) (disp : BitVec 8) (s : State), s.tpfx = false →
    (∀ k, immConst s.ipfx disp = some k →
      Completes (exec (.lea rt ra disp) s) (OnlyReg rt (s.reg ra + k) (s.pc + 4#64) s)) ∧
    (∀ k, immConst s.ipfx (0#0) = some k →
      Completes (exec (.leax rt ra rb) s) (OnlyReg rt (s.reg ra + s.reg rb + k) (s.pc + 4#64) s))

/-- Where loads and stores stop (R84, R85, R87, R524; decisions D12, D40): a misaligned address raises Misaligned(ea),
for widths 2, 4 and 8; else a byte that does not exist raises AccessFault(ea); nothing is read or written. A store
that passes both checks and one of whose bytes is program text is refused (R98, decision D34). The order of the checks
and of the refusal is log entry 22; that with `MISALIGNED` = split the presence of all bytes is checked before any is
read or written is log entry 19; both are DEDUCED. That a machine which continues goes on at `TRAP_TARGET` and changes
nothing else is this model's choice (log entry 6). -/
def Obligations.LoadsAndStoresStop : Prop :=
  ∀ (rt ra rb : RegNum) (disp : BitVec 8) (s : State), s.tpfx = false →
    let raisesAt (ea : Word) (n : Nat) (i : Instr) : Prop :=
      (MisalignedAt s ea n → Raises .misaligned ea s (exec i s)) ∧
      (AbsentAt s ea n → Raises .accessFault ea s (exec i s))
    let stopsAt (ea : Word) (n : Nat) (i : Instr) : Prop :=
      raisesAt ea n i ∧ (Accessible s ea n → ¬NotText s ea n → exec i s = .refused .storeToText)
    (∀ k, immConst s.ipfx disp = some k →
      let ea := s.reg ra + k
      raisesAt ea 1 (.lb rt ra disp) ∧ raisesAt ea 1 (.lbu rt ra disp) ∧ raisesAt ea 2 (.lc rt ra disp) ∧
      raisesAt ea 2 (.lcu rt ra disp) ∧ raisesAt ea 4 (.lh rt ra disp) ∧ raisesAt ea 4 (.lhu rt ra disp) ∧
      raisesAt ea 8 (.lw rt ra disp) ∧ stopsAt ea 1 (.sb rt ra disp) ∧ stopsAt ea 2 (.sc rt ra disp) ∧
      stopsAt ea 4 (.sh rt ra disp) ∧ stopsAt ea 8 (.sw rt ra disp)) ∧
    (∀ k, immConst s.ipfx (0#0) = some k →
      let ea := s.reg ra + s.reg rb + k
      raisesAt ea 1 (.lbx rt ra rb) ∧ raisesAt ea 1 (.lbux rt ra rb) ∧ raisesAt ea 2 (.lcx rt ra rb) ∧
      raisesAt ea 2 (.lcux rt ra rb) ∧ raisesAt ea 4 (.lhx rt ra rb) ∧ raisesAt ea 4 (.lhux rt ra rb) ∧
      raisesAt ea 8 (.lwx rt ra rb) ∧ stopsAt ea 1 (.sbx rt ra rb) ∧ stopsAt ea 2 (.scx rt ra rb) ∧
      stopsAt ea 4 (.shx rt ra rb) ∧ stopsAt ea 8 (.swx rt ra rb))

/-! ### Stores -/

/-- The stores (R430 to R438; decisions D11, D13, D14): where the store is made, the low 1, 2, 4 or 8 bytes of x[Rs] go to the
bytes at x[Ra] + K, or x[Ra] + x[Rb] + K in the indexed forms, and no other byte and no register changes. -/
def Obligations.Stores : Prop :=
  ∀ (rs ra rb : RegNum) (disp : BitVec 8) (s : State), s.tpfx = false →
    let stores (ea : Word) (n : Nat) (i : Instr) : Prop :=
      Storable s ea n → Completes (exec i s) (OnlyBytes ea n (s.reg rs) (s.pc + 4#64) s)
    (∀ k, immConst s.ipfx disp = some k →
      stores (s.reg ra + k) 1 (.sb rs ra disp) ∧ stores (s.reg ra + k) 2 (.sc rs ra disp) ∧
      stores (s.reg ra + k) 4 (.sh rs ra disp) ∧ stores (s.reg ra + k) 8 (.sw rs ra disp)) ∧
    (∀ k, immConst s.ipfx (0#0) = some k →
      stores (s.reg ra + s.reg rb + k) 1 (.sbx rs ra rb) ∧ stores (s.reg ra + s.reg rb + k) 2 (.scx rs ra rb) ∧
      stores (s.reg ra + s.reg rb + k) 4 (.shx rs ra rb) ∧ stores (s.reg ra + s.reg rb + k) 8 (.swx rs ra rb))

/-! ### Stack -/

/-- PUSH and PUSHC (R445, R446; decisions D3, D11, D13, D14): where the store is made, SP moves down by 8 and the 8 bytes at the
new SP take x[Ra], or the constant K; nothing else changes. -/
def Obligations.Pushes : Prop :=
  ∀ (ra : RegNum) (imm : BitVec 16) (s : State), s.tpfx = false → Storable s (s.sp - 8#64) 8 →
    (s.ipfx = none → ra ≠ s.launch.spReg → Completes (exec (.push ra) s)
      (OnlyRegAndBytes s.launch.spReg (s.sp - 8#64) (s.sp - 8#64) 8 (s.reg ra) (s.pc + 2#64) s)) ∧
    (∀ k, immConst s.ipfx imm = some k → Completes (exec (.pushc imm) s)
      (OnlyRegAndBytes s.launch.spReg (s.sp - 8#64) (s.sp - 8#64) 8 k (s.pc + 3#64) s))

/-- POP (R447; decisions D3, D11, D35): where the read succeeds, Rt takes the word at SP and SP moves up by 8; with Rt = 0 memory is
not read and SP moves all the same; nothing else changes. -/
def Obligations.PopReadsTheStack : Prop :=
  ∀ (rt : RegNum) (s : State), NoPrefix s → rt ≠ s.launch.spReg → s.launch.spReg ≠ 0#8 →
    (Accessible s s.sp 8 → rt ≠ 0#8 → Completes (exec (.pop rt) s) fun t =>
      t.reg rt = s.wordAt s.sp ∧ t.sp = s.sp + 8#64 ∧ (∀ r, r ≠ rt → r ≠ s.launch.spReg → t.reg r = s.reg r) ∧
      SameCa s t ∧ SameFlags s t ∧ SameBytes s t ∧ t.sr = s.sr ∧ EndsAt (s.pc + 2#64) s t) ∧
    Completes (exec (.pop 0#8) s) (OnlyReg s.launch.spReg (s.sp + 8#64) (s.pc + 2#64) s)

/-- Where the stack instructions stop (R84, R85, R87, R98, R445 to R448, R524; decisions D12, D34, D36, D40): an SP
that is no multiple of 8, or a word that does not exist, raises at the address accessed; a push onto program text is
refused; POP of R0 accesses nothing and raises nothing (`PopReadsTheStack`); PUSH of the register that is SP and POP
into it are refused. The order of the checks and of the refusal is log entry 22; that with `MISALIGNED` = split the
presence of all bytes is checked before any is read or written is log entry 19; both are DEDUCED. That a machine which
continues goes on at `TRAP_TARGET` and changes nothing else is this model's choice (log entry 6). -/
def Obligations.StackStops : Prop :=
  ∀ (r : RegNum) (imm : BitVec 16) (s : State), s.tpfx = false →
    let raisesAt (a : Word) (i : Instr) : Prop :=
      (MisalignedAt s a 8 → Raises .misaligned a s (exec i s)) ∧ (AbsentAt s a 8 → Raises .accessFault a s (exec i s))
    let stopsAt (a : Word) (i : Instr) : Prop :=
      raisesAt a i ∧ (Accessible s a 8 → ¬NotText s a 8 → exec i s = .refused .storeToText)
    (s.ipfx = none → r ≠ s.launch.spReg → stopsAt (s.sp - 8#64) (.push r)) ∧
    (∀ k, immConst s.ipfx imm = some k → stopsAt (s.sp - 8#64) (.pushc imm)) ∧
    (s.ipfx = none → r ≠ s.launch.spReg → r ≠ 0#8 → raisesAt s.sp (.pop r)) ∧
    (s.ipfx = none → exec (.push s.launch.spReg) s = .refused .pushOfSp ∧
      exec (.pop s.launch.spReg) s = .refused .popOfSp)

/-- What PUSH puts on the stack POP takes off it, and SP is where it was (R101, R445, R447). -/
def Obligations.PushThenPop : Prop :=
  ∀ (ra rt : RegNum) (s t : State), NoPrefix s → s.launch.spReg ≠ 0#8 → rt ≠ s.launch.spReg → rt ≠ 0#8 →
    Storable s (s.sp - 8#64) 8 → exec (.push ra) s = .next t →
    Completes (exec (.pop rt) t) fun u => u.reg rt = s.reg ra ∧ u.sp = s.sp ∧
      ∀ r, r ≠ rt → u.reg r = s.reg r

/-! ### Compare and swap -/

/-- CAS (R450; decisions D11, D14, D37), at ea = x[Ra] + K, a multiple of 8. Where the word at ea equals x[Rb] and may
be stored to, it takes x[Rc] and Rt takes the word's old value; where it differs from x[Rb], no byte changes and Rt
takes the word; nothing else changes in either case. Where it equals x[Rb] and one of its bytes is program text, the
CAS is refused (R98, decision D34); that it is refused only there, after the checks of the access, is log entry 22
(DEDUCED). -/
def Obligations.CompareAndSwap : Prop :=
  ∀ (rt rb rc ra : RegNum) (s : State) (k : Word), s.tpfx = false → immConst s.ipfx (0#0) = some k →
    let ea := s.reg ra + k
    ea.toNat % 8 = 0 →
    (Storable s ea 8 → s.wordAt ea = s.reg rb → Completes (exec (.cas rt rb rc ra) s)
      (OnlyRegAndBytes rt (s.wordAt ea) ea 8 (s.reg rc) (s.pc + 5#64) s)) ∧
    (Accessible s ea 8 → s.wordAt ea ≠ s.reg rb →
      Completes (exec (.cas rt rb rc ra) s) (OnlyReg rt (s.wordAt ea) (s.pc + 5#64) s)) ∧
    (Accessible s ea 8 → s.wordAt ea = s.reg rb → ¬NotText s ea 8 →
      exec (.cas rt rb rc ra) s = .refused .storeToText)

/-- The exceptions of CAS (R84, R88, R450; decisions D12, D40): an address that is no multiple of 8 raises
Misaligned(ea) whatever `MISALIGNED` is; else a word that does not exist raises AccessFault(ea). That a machine which
continues goes on at `TRAP_TARGET` and changes nothing else is this model's choice (log entry 6). -/
def Obligations.CompareAndSwapRaises : Prop :=
  ∀ (rt rb rc ra : RegNum) (s : State) (k : Word), s.tpfx = false → immConst s.ipfx (0#0) = some k →
    let ea := s.reg ra + k
    (ea.toNat % 8 ≠ 0 → Raises .misaligned ea s (exec (.cas rt rb rc ra) s)) ∧
    (ea.toNat % 8 = 0 → AbsentAt s ea 8 → Raises .accessFault ea s (exec (.cas rt rb rc ra) s))

/-! ### System instructions and prefixes -/

/-- NOP (R481): its byte; the pc moves on and nothing else changes; a NOP directly after IMMn or TRAPV is refused. -/
def Obligations.NoOperation : Prop :=
  Encodes [0xEA#8] .nop ∧ RefusesPrefixes .nop ∧
  ∀ s : State, NoPrefix s → Completes (exec .nop s) (OnlyPc (s.pc + 1#64) s)

/-- CLI (R482): its byte; it clears bit 15 of SR at every value of the privilege level and changes no other bit of SR, the
backup half included; no flag and nothing else changes; it raises nothing; a pending interrupt can be taken at the next
step; and no instruction sets the bit again. -/
def Obligations.ClearInterruptMask : Prop :=
  Encodes [0xFA#8] .cli ∧
  (∀ s : State, NoPrefix s → Completes (exec .cli s) fun t =>
    (∀ k < 32, t.sr.getLsbD k = if k = 15 then false else s.sr.getLsbD k) ∧
    SameRegs s t ∧ SameCa s t ∧ SameFlags s t ∧ SameBytes s t ∧ EndsAt (s.pc + 1#64) s t ∧
    ∀ src ∈ t.irqPending, src ∈ t.launch.irqSources → t.irqToTake.isSome = true) ∧
  ∀ i s t, exec i s = .next t → s.im = false → t.im = false

/-- BRK (R480, R521; decision D29): it raises Break, carrying the pc. With `TRAP_MODE` terminal the run ends there; a machine that
continues goes on at the OPEN `TRAP_TARGET` (log entry 6). -/
def Obligations.BreakRaises : Prop :=
  RefusesPrefixes .brk ∧ ∀ s : State, NoPrefix s → Raises .brk s.pc s (exec .brk s)

/-- TRAPV and the eight immediate prefixes (R483 to R493; decisions D16, D28): TRAPV sets `tpfx` and leaves a pending
immediate prefix; IMMn sets `ipfx` to its value and leaves a pending TRAPV; each moves on by its length, 1 or n + 1
bytes, and changes nothing else; a second one of the same kind is refused. That TRAPV runs with an immediate prefix
pending follows R493 against the table of R152: log entry 18 (DEDUCED, unsafe). -/
def Obligations.Prefixes : Prop :=
  ∀ s : State,
    let leaves (i : Instr) (p : Option ImmPrefix) (v : Bool) (len : Word) : Prop := Completes (exec i s) fun t =>
      t.ipfx = p ∧ t.tpfx = v ∧ t.pc = s.pc + len ∧ SameRegs s t ∧ SameCa s t ∧ SameFlags s t ∧ SameBytes s t ∧
      t.sr = s.sr ∧ t.irqPending = s.irqPending ∧ t.launch = s.launch
    let sets (i : Instr) (p : ImmPrefix) (len : Word) : Prop :=
      (s.ipfx = none → leaves i (some p) s.tpfx len) ∧ (s.ipfx ≠ none → exec i s = .refused .secondImmPrefix)
    (s.tpfx = false → leaves .trapv s.ipfx true 1#64) ∧ (s.tpfx = true → exec .trapv s = .refused .secondTrapv) ∧
    (∀ p, sets (.imm8 p) (.imm8 p) 2#64) ∧ (∀ p, sets (.imm16 p) (.imm16 p) 3#64) ∧
    (∀ p, sets (.imm24 p) (.imm24 p) 4#64) ∧ (∀ p, sets (.imm32 p) (.imm32 p) 5#64) ∧
    (∀ p, sets (.imm40 p) (.imm40 p) 6#64) ∧ (∀ p, sets (.imm48 p) (.imm48 p) 7#64) ∧
    (∀ p, sets (.imm56 p) (.imm56 p) 8#64) ∧ (∀ p, sets (.imm64 p) (.imm64 p) 9#64)

/-- The widest prefixes fill the constant exactly (R490 to R492; decision D14): after IMM56 an ADD# from R0 loads P above Imm8, after
IMM48 a PUSHC stores P above Const16, and after IMM64 an LEAx from R0 and R0 gives P; one step wider, each is refused. -/
def Obligations.WidestPrefixes : Prop :=
  ∀ (rt : RegNum) (p48 : BitVec 48) (p56 : BitVec 56) (p64 : BitVec 64) (imm : BitVec 8) (c : BitVec 16) (s t : State),
    s.tpfx = false →
    (exec (.imm56 p56) s = .next t →
      Completes (exec (.addI rt 0#8 imm) t) (OnlyReg rt (p56 ++ imm) (t.pc + 4#64) t) ∧
      exec (.pushc c) t = .refused .prefixTooWide) ∧
    (exec (.imm48 p48) s = .next t → Storable t (t.sp - 8#64) 8 →
      Completes (exec (.pushc c) t)
        (OnlyRegAndBytes t.launch.spReg (t.sp - 8#64) (t.sp - 8#64) 8 (p48 ++ c) (t.pc + 3#64) t)) ∧
    (exec (.imm64 p64) s = .next t →
      Completes (exec (.leax rt 0#8 0#8) t) (OnlyReg rt p64 (t.pc + 4#64) t) ∧
      exec (.addI rt 0#8 imm) t = .refused .prefixTooWide)

/-- CINV, SWS and CINVx are refused in every state (R439 to R441, decision D26): the spec has their names and opcodes only. -/
def Obligations.UndescribedInstructionsAreRefused : Prop :=
  ∀ s : State, Refuses (exec .cinv s) ∧ Refuses (exec .sws s) ∧ Refuses (exec .cinvx s) ∧
    (NoPrefix s → exec .cinv s = .refused .cinvNotDescribed ∧ exec .sws s = .refused .swsNotDescribed ∧
      exec .cinvx s = .refused .cinvxNotDescribed)
end

