-- ==== Sys2Proof/Laws/Memory.lean ====
section
/-! SUPPORT. The laws of memory: reading after a write, the canonical form that every operation keeps, and what an access
to several bytes reads and writes. -/

namespace Sys2Proof.Machine

/-- Below its lower bound a canonical memory lists nothing. -/
theorem Memory.read_below {lo a : Nat} {m : Memory} (h : Memory.wfFrom lo m) (ha : a < lo) :
    Memory.read m a = Memory.unlisted := by
  induction m generalizing lo with
  | nil => rfl
  | cons c m ih =>
    obtain ⟨b, w⟩ := c
    simp [Memory.wfFrom] at h
    have : a ≠ b := by omega
    simp [Memory.read, this]
    exact ih h.2 (by omega)

/-- A lower bound may be lowered. -/
theorem Memory.wfFrom_mono {lo lo' : Nat} {m : Memory} (h : Memory.wfFrom lo m) (hl : lo' ≤ lo) :
    Memory.wfFrom lo' m := by
  cases m with
  | nil => rfl
  | cons c m =>
    obtain ⟨b, w⟩ := c
    simp [Memory.wfFrom] at h ⊢
    exact ⟨⟨⟨by omega, h.1.1.2⟩, h.1.2⟩, h.2⟩

theorem Memory.read_cons_self {a : Nat} {v : Byte} {m : Memory} (h : Memory.wfFrom (a + 1) m) :
    Memory.read (Memory.cons a v m) a = v := by
  unfold Memory.cons
  split
  · rename_i hv; rw [Memory.read_below h (by omega), hv]
  · simp [Memory.read]

theorem Memory.read_cons_ne {a b : Nat} {v : Byte} {m : Memory} (h : b ≠ a) :
    Memory.read (Memory.cons a v m) b = Memory.read m b := by
  unfold Memory.cons; split <;> simp [Memory.read, h]

theorem Memory.wfFrom_cons {lo a : Nat} {v : Byte} {m : Memory} (hl : lo ≤ a) (ha : a < 2 ^ 64)
    (h : Memory.wfFrom (a + 1) m) : Memory.wfFrom lo (Memory.cons a v m) := by
  unfold Memory.cons
  split
  · exact Memory.wfFrom_mono h (by omega)
  · rename_i hv; simp [Memory.wfFrom, hl, hv, h]; omega

/-- Writing one byte keeps the canonical form. -/
theorem Memory.wfFrom_write {lo a : Nat} {v : Byte} {m : Memory} (h : Memory.wfFrom lo m) (hl : lo ≤ a)
    (ha : a < 2 ^ 64) : Memory.wfFrom lo (Memory.write m a v) := by
  induction m generalizing lo with
  | nil => exact Memory.wfFrom_cons hl ha rfl
  | cons c m ih =>
    obtain ⟨b, w⟩ := c
    unfold Memory.write
    simp only [Memory.wfFrom, Bool.and_eq_true, decide_eq_true_eq] at h
    split
    · refine Memory.wfFrom_cons hl ha ?_
      simp only [Memory.wfFrom, Bool.and_eq_true, decide_eq_true_eq]
      exact ⟨⟨⟨by omega, h.1.1.2⟩, h.1.2⟩, h.2⟩
    · split
      · rename_i hab; subst hab; exact Memory.wfFrom_cons hl ha h.2
      · simp only [Memory.wfFrom, Bool.and_eq_true, decide_eq_true_eq]
        exact ⟨h.1, ih h.2 (by omega)⟩

/-- Writing one byte keeps the canonical form. -/
theorem Memory.wf_write {a : Nat} {v : Byte} {m : Memory} (h : Memory.wf m) (ha : a < 2 ^ 64) :
    Memory.wf (Memory.write m a v) := Memory.wfFrom_write h (Nat.zero_le a) ha

/-- A read elsewhere does not see a write. -/
theorem Memory.read_write_ne {a b : Nat} {v : Byte} {m : Memory} (h : b ≠ a) :
    Memory.read (Memory.write m a v) b = Memory.read m b := by
  induction m with
  | nil => exact Memory.read_cons_ne h
  | cons c m ih =>
    obtain ⟨d, w⟩ := c
    unfold Memory.write
    split
    · exact Memory.read_cons_ne h
    · split
      · rename_i had; subst had; rw [Memory.read_cons_ne h]; simp [Memory.read, h]
      · simp [Memory.read, ih]

/-- A read of the byte written gives it back, in a canonical memory. -/
theorem Memory.read_write_self {a : Nat} {v : Byte} {m : Memory} (h : Memory.wf m) :
    Memory.read (Memory.write m a v) a = v := by
  have key : ∀ (m : Memory) (lo : Nat), Memory.wfFrom lo m → Memory.read (Memory.write m a v) a = v := by
    intro m
    induction m with
    | nil => intro lo _; exact Memory.read_cons_self rfl
    | cons c m ih =>
      obtain ⟨d, w⟩ := c
      intro lo h
      unfold Memory.write
      simp only [Memory.wfFrom, Bool.and_eq_true, decide_eq_true_eq] at h
      split
      · refine Memory.read_cons_self ?_
        simp only [Memory.wfFrom, Bool.and_eq_true, decide_eq_true_eq]
        exact ⟨⟨⟨by omega, h.1.1.2⟩, h.1.2⟩, h.2⟩
      · split
        · rename_i had; subst had; exact Memory.read_cons_self h.2
        · rename_i had; simp only [Memory.read, if_neg had]; exact ih _ h.2
  exact key m 0 h

/-- Reading any byte after a write of one. -/
theorem Memory.read_write {a b : Nat} {v : Byte} {m : Memory} (h : Memory.wf m) :
    Memory.read (Memory.write m a v) b = if b = a then v else Memory.read m b := by
  split
  · rename_i hb; subst hb; exact Memory.read_write_self h
  · rename_i hb; exact Memory.read_write_ne hb

/-- A write of several bytes keeps the canonical form. -/
theorem Memory.wf_writeLE {m : Memory} (h : Memory.wf m) (a : Word) (n : Nat) (v : BitVec (8 * n)) :
    Memory.wf (Memory.writeLE m a n v) := by
  induction n generalizing m a with
  | zero => exact h
  | succ n ih => exact ih (Memory.wf_write h a.isLt) _ _

/-- What a write of `n` bytes at `a` does to each byte: byte `k` of the value stands at `a + k` (addresses wrap), and every other
byte is as before (R83, R85, R100). -/
theorem Memory.read_writeLE {m : Memory} (h : Memory.wf m) (a b : Word) (n : Nat) (hn : n ≤ 2 ^ 64)
    (v : BitVec (8 * n)) :
    Memory.read (Memory.writeLE m a n v) b.toNat =
      if (b - a).toNat < n then v.extractLsb' (8 * (b - a).toNat) 8 else Memory.read m b.toNat := by
  induction n generalizing m a with
  | zero => simp [Memory.writeLE]
  | succ n ih =>
    rw [Memory.writeLE, ih (Memory.wf_write h a.isLt) (a + 1#64) (by omega)]
    rw [Memory.read_write h]
    by_cases hab : b = a
    · subst hab
      have e1 : (b - (b + 1#64)).toNat = 2 ^ 64 - 1 := by
        have : b - (b + 1#64) = BitVec.allOnes 64 := by
          rw [BitVec.sub_eq_iff_eq_add]
          rw [BitVec.add_comm, BitVec.add_assoc]
          simp
        rw [this]; rfl
      rw [e1, if_neg (by omega)]
      simp
    · have hpos : (b - a).toNat ≠ 0 := by
        intro e
        have h0 : b - a = 0#64 := BitVec.eq_of_toNat_eq e
        exact hab ((BitVec.sub_eq_iff_eq_add.mp h0).trans (by simp))
      have e2 : (b - (a + 1#64)).toNat = (b - a).toNat - 1 := by
        have hb := b.isLt; have ha := a.isLt
        simp only [BitVec.toNat_sub, BitVec.toNat_add] at hpos ⊢
        simp at hpos ⊢
        omega
      have hne : b.toNat ≠ a.toNat := fun e => hab (BitVec.eq_of_toNat_eq e)
      rw [e2, if_neg hne]
      by_cases hlt : (b - a).toNat < n + 1
      · rw [if_pos (by omega), if_pos hlt]
        apply BitVec.eq_of_getLsbD_eq
        intro i hi
        simp only [BitVec.getLsbD_extractLsb', hi, decide_true, Bool.true_and]
        rw [show 8 + (8 * ((b - a).toNat - 1) + i) = 8 * (b - a).toNat + i by omega]
        have hk : 8 * ((b - a).toNat - 1) + i < 8 * n := by omega
        rw [decide_eq_true hk, Bool.true_and]
      · rw [if_neg (by omega), if_neg hlt]

/-- Byte `k` of the number read at `a` is the byte at `a + k` (addresses wrap) (R83, R84, R100). -/
theorem Memory.extractLsb'_readLE (m : Memory) (a : Word) (n k : Nat) (hk : k < n) :
    (Memory.readLE m a n).extractLsb' (8 * k) 8 = Memory.read m (a + BitVec.ofNat 64 k).toNat := by
  induction n generalizing a k with
  | zero => omega
  | succ n ih =>
    rw [Memory.readLE]
    cases k with
    | zero =>
      apply BitVec.eq_of_getLsbD_eq
      intro i hi
      simp [BitVec.getLsbD_append, hi]
    | succ k =>
      have := ih (a + 1#64) k (by omega)
      rw [show a + 1#64 + BitVec.ofNat 64 k = a + BitVec.ofNat 64 (k + 1) by
        rw [BitVec.add_assoc]; congr 1; apply BitVec.eq_of_toNat_eq; simp [BitVec.toNat_add]; omega] at this
      rw [← this]
      apply BitVec.eq_of_getLsbD_eq
      intro i hi
      simp only [BitVec.getLsbD_extractLsb', hi, decide_true, Bool.true_and]
      erw [BitVec.getLsbD_append]
      simp only [show ¬ (8 * (k + 1) + i < 8) by omega, if_false]
      congr 1
      omega

/-- A read of `n` bytes depends on those bytes alone. -/
theorem Memory.readLE_congr {m m' : Memory} (a : Word) (n : Nat)
    (h : ∀ k < n, Memory.read m (a + BitVec.ofNat 64 k).toNat = Memory.read m' (a + BitVec.ofNat 64 k).toNat) :
    Memory.readLE m a n = Memory.readLE m' a n := by
  induction n generalizing a with
  | zero => rfl
  | succ n ih =>
    rw [Memory.readLE, Memory.readLE]
    have h0 := h 0 (by omega)
    simp at h0
    rw [h0, ih (a + 1#64)]
    intro k hk
    have := h (k + 1) (by omega)
    rwa [show a + 1#64 + BitVec.ofNat 64 k = a + BitVec.ofNat 64 (k + 1) by
      rw [BitVec.add_assoc]; congr 1; apply BitVec.eq_of_toNat_eq; simp [BitVec.toNat_add]; omega]

end Sys2Proof.Machine
end

