-- ==== Sys2Proof/Laws/State.lean ====
section
/-! SUPPORT. One lemma per field and accessor of State per update of it, so that no later proof unfolds a record update. -/

namespace Sys2Proof.Machine

variable (s : State)

/-! ### setReg -/

@[simp] theorem setReg_ca (r : RegNum) (v : Word) : (s.setReg r v).ca = s.ca := by unfold State.setReg; split <;> rfl
@[simp] theorem setReg_pc (r : RegNum) (v : Word) : (s.setReg r v).pc = s.pc := by unfold State.setReg; split <;> rfl
@[simp] theorem setReg_flags (r : RegNum) (v : Word) : (s.setReg r v).flags = s.flags := by unfold State.setReg; split <;> rfl
@[simp] theorem setReg_sr (r : RegNum) (v : Word) : (s.setReg r v).sr = s.sr := by unfold State.setReg; split <;> rfl
@[simp] theorem setReg_ipfx (r : RegNum) (v : Word) : (s.setReg r v).ipfx = s.ipfx := by unfold State.setReg; split <;> rfl
@[simp] theorem setReg_tpfx (r : RegNum) (v : Word) : (s.setReg r v).tpfx = s.tpfx := by unfold State.setReg; split <;> rfl
@[simp] theorem setReg_mem (r : RegNum) (v : Word) : (s.setReg r v).mem = s.mem := by unfold State.setReg; split <;> rfl
@[simp] theorem setReg_irqPending (r : RegNum) (v : Word) : (s.setReg r v).irqPending = s.irqPending := by unfold State.setReg; split <;> rfl
@[simp] theorem setReg_launch (r : RegNum) (v : Word) : (s.setReg r v).launch = s.launch := by unfold State.setReg; split <;> rfl
@[simp] theorem reg_zero : s.reg 0#8 = 0#64 := rfl
@[simp] theorem setReg_zero (v : Word) : s.setReg 0#8 v = s := rfl

/-- Reading a general register after a write (R32: R0 takes no write). -/
theorem reg_setReg (r r' : RegNum) (v : Word) :
    (s.setReg r v).reg r' = if r' = r ∧ r ≠ 0#8 then v else s.reg r' := by
  unfold State.setReg
  by_cases hr : r = 0#8
  · simp [hr]
  · by_cases hr' : r' = 0#8
    · subst hr'; simp [State.reg, hr, Ne.symm hr]
    · have h1 : r.toNat ≠ 0 := fun e => hr (BitVec.eq_of_toNat_eq e)
      have h2 : r'.toNat ≠ 0 := fun e => hr' (BitVec.eq_of_toNat_eq e)
      by_cases h : r' = r
      · subst h; simp [State.reg, hr]
      · have h3 : r.toNat ≠ r'.toNat := fun e => h (BitVec.eq_of_toNat_eq e.symm)
        have h4 : r.toNat - 1 ≠ r'.toNat - 1 := by omega
        simp [State.reg, hr, hr', h, h4]

@[simp] theorem reg_setReg_self (r : RegNum) (v : Word) (h : r ≠ 0#8) : (s.setReg r v).reg r = v := by
  simp [reg_setReg, h]
@[simp] theorem reg_setReg_ne (r r' : RegNum) (v : Word) (h : r' ≠ r) : (s.setReg r v).reg r' = s.reg r' := by
  simp [reg_setReg, h]

/-! ### setCa -/

@[simp] theorem setCa_gpr (i : CaNum) (v : Word) : (s.setCa i v).gpr = s.gpr := by
  unfold State.setCa; split <;> [rfl; (split <;> rfl)]
@[simp] theorem setCa_pc (i : CaNum) (v : Word) : (s.setCa i v).pc = s.pc := by
  unfold State.setCa; split <;> [rfl; (split <;> rfl)]
@[simp] theorem setCa_flags (i : CaNum) (v : Word) : (s.setCa i v).flags = s.flags := by
  unfold State.setCa; split <;> [rfl; (split <;> rfl)]
@[simp] theorem setCa_sr (i : CaNum) (v : Word) : (s.setCa i v).sr = s.sr := by
  unfold State.setCa; split <;> [rfl; (split <;> rfl)]
@[simp] theorem setCa_ipfx (i : CaNum) (v : Word) : (s.setCa i v).ipfx = s.ipfx := by
  unfold State.setCa; split <;> [rfl; (split <;> rfl)]
@[simp] theorem setCa_tpfx (i : CaNum) (v : Word) : (s.setCa i v).tpfx = s.tpfx := by
  unfold State.setCa; split <;> [rfl; (split <;> rfl)]
@[simp] theorem setCa_mem (i : CaNum) (v : Word) : (s.setCa i v).mem = s.mem := by
  unfold State.setCa; split <;> [rfl; (split <;> rfl)]
@[simp] theorem setCa_irqPending (i : CaNum) (v : Word) : (s.setCa i v).irqPending = s.irqPending := by
  unfold State.setCa; split <;> [rfl; (split <;> rfl)]
@[simp] theorem setCa_launch (i : CaNum) (v : Word) : (s.setCa i v).launch = s.launch := by
  unfold State.setCa; split <;> [rfl; (split <;> rfl)]
@[simp] theorem caReg_zero (len : Word) : s.caReg len 0#4 = 0#64 := rfl
@[simp] theorem caReg_fifteen (len : Word) : s.caReg len 15#4 = s.pcrel len := rfl
@[simp] theorem setCa_zero (v : Word) : s.setCa 0#4 v = s := rfl
@[simp] theorem setCa_fifteen (v : Word) : s.setCa 15#4 v = s := rfl
@[simp] theorem setCa_pcrel (i : CaNum) (v len : Word) : (s.setCa i v).pcrel len = s.pcrel len := by simp [State.pcrel]

/-- Reading a code address register after a write (R37, R38: CA0 and CA15 take no write). -/
theorem caReg_setCa (i j : CaNum) (v len : Word) :
    (s.setCa i v).caReg len j = if j = i ∧ i ≠ 0#4 ∧ i ≠ 15#4 then v else s.caReg len j := by
  by_cases h0 : i = 0#4
  · simp [h0]
  · by_cases h15 : i = 15#4
    · simp [h15]
    · by_cases hj0 : j = 0#4
      · subst hj0; simp [h0, Ne.symm h0]
      · by_cases hj15 : j = 15#4
        · subst hj15; simp [h15, Ne.symm h15]
        · have h1 : i.toNat ≠ 0 := fun e => h0 (BitVec.eq_of_toNat_eq e)
          have h2 : j.toNat ≠ 0 := fun e => hj0 (BitVec.eq_of_toNat_eq e)
          by_cases h : j = i
          · subst h; simp [State.caReg, State.setCa, h0, h15]
          · have h3 : i.toNat ≠ j.toNat := fun e => h (BitVec.eq_of_toNat_eq e.symm)
            have h4 : i.toNat - 1 ≠ j.toNat - 1 := by omega
            simp [State.caReg, State.setCa, h0, h15, hj0, hj15, h, h4]

@[simp] theorem caReg_setCa_ne (i j : CaNum) (v len : Word) (h : j ≠ i) :
    (s.setCa i v).caReg len j = s.caReg len j := by simp [caReg_setCa, h]

/-! ### setFlag -/

@[simp] theorem setFlag_gpr (i : FlagNum) (v : BitVec 4) : (s.setFlag i v).gpr = s.gpr := rfl
@[simp] theorem setFlag_ca (i : FlagNum) (v : BitVec 4) : (s.setFlag i v).ca = s.ca := rfl
@[simp] theorem setFlag_pc (i : FlagNum) (v : BitVec 4) : (s.setFlag i v).pc = s.pc := rfl
@[simp] theorem setFlag_sr (i : FlagNum) (v : BitVec 4) : (s.setFlag i v).sr = s.sr := rfl
@[simp] theorem setFlag_ipfx (i : FlagNum) (v : BitVec 4) : (s.setFlag i v).ipfx = s.ipfx := rfl
@[simp] theorem setFlag_tpfx (i : FlagNum) (v : BitVec 4) : (s.setFlag i v).tpfx = s.tpfx := rfl
@[simp] theorem setFlag_mem (i : FlagNum) (v : BitVec 4) : (s.setFlag i v).mem = s.mem := rfl
@[simp] theorem setFlag_irqPending (i : FlagNum) (v : BitVec 4) : (s.setFlag i v).irqPending = s.irqPending := rfl
@[simp] theorem setFlag_launch (i : FlagNum) (v : BitVec 4) : (s.setFlag i v).launch = s.launch := rfl

/-- Reading a flag register after a write. -/
theorem flag_setFlag (i j : FlagNum) (v : BitVec 4) :
    (s.setFlag i v).flag j = if j = i then v else s.flag j := by
  by_cases h : j = i
  · subst h; simp [State.flag, State.setFlag]
  · have h3 : i.toNat ≠ j.toNat := fun e => h (BitVec.eq_of_toNat_eq e.symm)
    simp [State.flag, State.setFlag, h, h3]

/-! ### jump and finish -/

@[simp] theorem jump_gpr (t : Word) : (s.jump t).gpr = s.gpr := rfl
@[simp] theorem jump_ca (t : Word) : (s.jump t).ca = s.ca := rfl
@[simp] theorem jump_pc (t : Word) : (s.jump t).pc = t := rfl
@[simp] theorem jump_flags (t : Word) : (s.jump t).flags = s.flags := rfl
@[simp] theorem jump_sr (t : Word) : (s.jump t).sr = s.sr := rfl
@[simp] theorem jump_ipfx (t : Word) : (s.jump t).ipfx = none := rfl
@[simp] theorem jump_tpfx (t : Word) : (s.jump t).tpfx = false := rfl
@[simp] theorem jump_mem (t : Word) : (s.jump t).mem = s.mem := rfl
@[simp] theorem jump_irqPending (t : Word) : (s.jump t).irqPending = s.irqPending := rfl
@[simp] theorem jump_launch (t : Word) : (s.jump t).launch = s.launch := rfl
@[simp] theorem finish_gpr (len : Word) : (s.finish len).gpr = s.gpr := rfl
@[simp] theorem finish_ca (len : Word) : (s.finish len).ca = s.ca := rfl
@[simp] theorem finish_pc (len : Word) : (s.finish len).pc = s.pc + len := rfl
@[simp] theorem finish_flags (len : Word) : (s.finish len).flags = s.flags := rfl
@[simp] theorem finish_sr (len : Word) : (s.finish len).sr = s.sr := rfl
@[simp] theorem finish_ipfx (len : Word) : (s.finish len).ipfx = none := rfl
@[simp] theorem finish_tpfx (len : Word) : (s.finish len).tpfx = false := rfl
@[simp] theorem finish_mem (len : Word) : (s.finish len).mem = s.mem := rfl
@[simp] theorem finish_irqPending (len : Word) : (s.finish len).irqPending = s.irqPending := rfl
@[simp] theorem finish_launch (len : Word) : (s.finish len).launch = s.launch := rfl

/-! ### Accessors -/

/-- `reg` reads the field `gpr` alone. -/
theorem reg_congr {s t : State} (h : t.gpr = s.gpr) (r : RegNum) : t.reg r = s.reg r := by simp [State.reg, h]
/-- `caReg` reads the fields `ca`, `pc` and `launch` alone; below CA15, `ca` alone. -/
theorem caReg_congr {s t : State} (h : t.ca = s.ca) (len len' : Word) (i : CaNum) (hi : i ≠ 15#4) :
    t.caReg len i = s.caReg len' i := by simp [State.caReg, h, hi]
/-- `flag` reads the field `flags` alone. -/
theorem flag_congr {s t : State} (h : t.flags = s.flags) (i : FlagNum) : t.flag i = s.flag i := by simp [State.flag, h]

@[simp] theorem setReg_caReg (r : RegNum) (v : Word) (l : Word) (j : CaNum) : (s.setReg r v).caReg l j = s.caReg l j := by
  simp [State.caReg, State.pcrel]
@[simp] theorem setReg_flag (r : RegNum) (v : Word) (j : FlagNum) : (s.setReg r v).flag j = s.flag j := by simp [State.flag]
@[simp] theorem setReg_byteAt (r : RegNum) (v : Word) (b : Word) : (s.setReg r v).byteAt b = s.byteAt b := by simp [State.byteAt]
@[simp] theorem setReg_present (r : RegNum) (v : Word) (b : Word) : (s.setReg r v).present b = s.present b := by simp [State.present]
@[simp] theorem setReg_isText (r : RegNum) (v : Word) (b : Word) : (s.setReg r v).isText b = s.isText b := by simp [State.isText]
@[simp] theorem setCa_reg (i : CaNum) (v : Word) (q : RegNum) : (s.setCa i v).reg q = s.reg q := by simp [State.reg]
@[simp] theorem setCa_flag (i : CaNum) (v : Word) (j : FlagNum) : (s.setCa i v).flag j = s.flag j := by simp [State.flag]
@[simp] theorem setCa_byteAt (i : CaNum) (v : Word) (b : Word) : (s.setCa i v).byteAt b = s.byteAt b := by simp [State.byteAt]
@[simp] theorem setCa_present (i : CaNum) (v : Word) (b : Word) : (s.setCa i v).present b = s.present b := by simp [State.present]
@[simp] theorem setCa_isText (i : CaNum) (v : Word) (b : Word) : (s.setCa i v).isText b = s.isText b := by simp [State.isText]
@[simp] theorem setFlag_reg (i : FlagNum) (v : BitVec 4) (q : RegNum) : (s.setFlag i v).reg q = s.reg q := by simp [State.reg]
@[simp] theorem setFlag_caReg (i : FlagNum) (v : BitVec 4) (l : Word) (j : CaNum) : (s.setFlag i v).caReg l j = s.caReg l j := by
  simp [State.caReg, State.pcrel]
@[simp] theorem setFlag_byteAt (i : FlagNum) (v : BitVec 4) (b : Word) : (s.setFlag i v).byteAt b = s.byteAt b := by simp [State.byteAt]
@[simp] theorem setFlag_present (i : FlagNum) (v : BitVec 4) (b : Word) : (s.setFlag i v).present b = s.present b := by simp [State.present]
@[simp] theorem setFlag_isText (i : FlagNum) (v : BitVec 4) (b : Word) : (s.setFlag i v).isText b = s.isText b := by simp [State.isText]
@[simp] theorem jump_reg (t : Word) (q : RegNum) : (s.jump t).reg q = s.reg q := by simp [State.reg]
@[simp] theorem jump_caReg (t : Word) (l : Word) (j : CaNum) (hj : j ≠ 15#4) : (s.jump t).caReg l j = s.caReg l j := by
  simp [State.caReg, hj]
@[simp] theorem jump_flag (t : Word) (j : FlagNum) : (s.jump t).flag j = s.flag j := by simp [State.flag]
@[simp] theorem jump_byteAt (t : Word) (b : Word) : (s.jump t).byteAt b = s.byteAt b := by simp [State.byteAt]
@[simp] theorem jump_present (t : Word) (b : Word) : (s.jump t).present b = s.present b := by simp [State.present]
@[simp] theorem jump_isText (t : Word) (b : Word) : (s.jump t).isText b = s.isText b := by simp [State.isText]
@[simp] theorem finish_reg (len : Word) (q : RegNum) : (s.finish len).reg q = s.reg q := by simp [State.reg]
@[simp] theorem finish_caReg (len : Word) (l : Word) (j : CaNum) (hj : j ≠ 15#4) : (s.finish len).caReg l j = s.caReg l j := by
  simp [State.caReg, hj]
@[simp] theorem finish_flag (len : Word) (j : FlagNum) : (s.finish len).flag j = s.flag j := by simp [State.flag]
@[simp] theorem finish_byteAt (len : Word) (b : Word) : (s.finish len).byteAt b = s.byteAt b := by simp [State.byteAt]
@[simp] theorem finish_present (len : Word) (b : Word) : (s.finish len).present b = s.present b := by simp [State.present]
@[simp] theorem finish_isText (len : Word) (b : Word) : (s.finish len).isText b = s.isText b := by simp [State.isText]
@[simp] theorem setCa_sp (i : CaNum) (v : Word) : (s.setCa i v).sp = s.sp := by simp [State.sp]
@[simp] theorem setFlag_sp (i : FlagNum) (v : BitVec 4) : (s.setFlag i v).sp = s.sp := by simp [State.sp]
@[simp] theorem jump_sp (t : Word) : (s.jump t).sp = s.sp := by simp [State.sp]
@[simp] theorem finish_sp (len : Word) : (s.finish len).sp = s.sp := by simp [State.sp]

end Sys2Proof.Machine
end

