-- ==== Sys2Proof/Laws/Ops.lean ====
section
/-! SUPPORT. One lemma per shared operation that says once everything it can do: which outcomes it has and when. -/

namespace Sys2Proof.Machine

/-! ### Prefix admission -/

/-- Admission of no immediate prefix: it goes on, or refuses by name. -/
theorem noImmPrefix_cases (s : State) (k : Out) :
    (s.ipfx = none ∧ noImmPrefix s k = k) ∨ (s.ipfx ≠ none ∧ noImmPrefix s k = .refused .immPrefixNotAccepted) := by
  unfold noImmPrefix
  cases s.ipfx <;> simp

/-- Admission of no TRAPV: it goes on, or refuses by name. -/
theorem noTrapv_cases (s : State) (k : Out) :
    (s.tpfx = false ∧ noTrapv s k = k) ∨ (s.tpfx = true ∧ noTrapv s k = .refused .trapvNotAccepted) := by
  unfold noTrapv
  cases s.tpfx <;> simp

/-- Admission of no prefix at all: it goes on, or refuses. -/
theorem noPrefixes_cases (s : State) (k : Out) :
    (s.ipfx = none ∧ s.tpfx = false ∧ noPrefixes s k = k) ∨
    ((s.ipfx ≠ none ∨ s.tpfx = true) ∧ ∃ r, noPrefixes s k = .refused r) := by
  unfold noPrefixes noImmPrefix noTrapv
  cases s.ipfx <;> cases s.tpfx <;> simp

@[simp] theorem noPrefixes_of_none {s : State} (k : Out) (hi : s.ipfx = none) (ht : s.tpfx = false) :
    noPrefixes s k = k := by simp [noPrefixes, noImmPrefix, noTrapv, hi, ht]
@[simp] theorem noImmPrefix_of_none {s : State} (k : Out) (hi : s.ipfx = none) : noImmPrefix s k = k := by
  simp [noImmPrefix, hi]
@[simp] theorem noTrapv_of_false {s : State} (k : Out) (ht : s.tpfx = false) : noTrapv s k = k := by
  simp [noTrapv, ht]

/-! ### Operand forms -/

/-- The constant K: it goes on with K, or refuses the prefix as too wide. -/
theorem withConst_cases {w : Nat} (f : BitVec w) (s : State) (k : Word → Out) :
    (∃ c, immConst s.ipfx f = some c ∧ withConst f s k = k c) ∨
    (immConst s.ipfx f = none ∧ withConst f s k = .refused .prefixTooWide) := by
  unfold withConst
  cases immConst s.ipfx f <;> simp

@[simp] theorem withConst_of_some {w : Nat} {f : BitVec w} {s : State} {c : Word} (k : Word → Out)
    (h : immConst s.ipfx f = some c) : withConst f s k = k c := by simp [withConst, h]

/-- The displacement form: it goes on with `x[Ra] + K`, or refuses. -/
theorem withDisp_cases (ra : RegNum) (disp : BitVec 8) (s : State) (k : Word → Out) :
    (∃ c, s.tpfx = false ∧ immConst s.ipfx disp = some c ∧ withDisp ra disp s k = k (s.reg ra + c)) ∨
    (∃ r, withDisp ra disp s k = .refused r) := by
  unfold withDisp
  rcases noTrapv_cases s (withConst disp s fun c => k (s.reg ra + c)) with ⟨ht, e⟩ | ⟨_, e⟩
  · rw [e]
    rcases withConst_cases disp s (fun c => k (s.reg ra + c)) with ⟨c, hc, e'⟩ | ⟨_, e'⟩
    · exact .inl ⟨c, ht, hc, e'⟩
    · exact .inr ⟨_, e'⟩
  · exact .inr ⟨_, e⟩

/-- The indexed form: it goes on with `x[Ra] + x[Rb] + K`, or refuses. -/
theorem withIndex_cases (ra rb : RegNum) (s : State) (k : Word → Out) :
    (∃ c, s.tpfx = false ∧ immConst s.ipfx (0#0) = some c ∧ withIndex ra rb s k = k (s.reg ra + s.reg rb + c)) ∨
    (∃ r, withIndex ra rb s k = .refused r) := by
  unfold withIndex
  rcases noTrapv_cases s (withConst (0#0) s fun c => k (s.reg ra + s.reg rb + c)) with ⟨ht, e⟩ | ⟨_, e⟩
  · rw [e]
    rcases withConst_cases (0#0) s (fun c => k (s.reg ra + s.reg rb + c)) with ⟨c, hc, e'⟩ | ⟨_, e'⟩
    · exact .inl ⟨c, ht, hc, e'⟩
    · exact .inr ⟨_, e'⟩
  · exact .inr ⟨_, e⟩

/-! ### Exceptions -/

/-- Raising an exception: the run ends in `Trapped`, or goes on at the OPEN handler address; in both cases from the state
that exception entry leaves (R525). -/
theorem raise_cases (e : Exn) (info : Word) (s : State) :
    (s.launch.trapMode = .terminal ∧ raise e info s = .fault (.trapped e info s.enterException)) ∨
    (s.launch.trapMode = .handler ∧
      raise e info s = .next { s.enterException with pc := Config.trapTarget e (s.caReg 0#64 12#4) s.mem }) := by
  unfold raise
  cases s.launch.trapMode <;> simp

@[simp] theorem enterException_gpr (s : State) : s.enterException.gpr = s.gpr := by simp [State.enterException]
@[simp] theorem enterException_pc (s : State) : s.enterException.pc = s.pc := by simp [State.enterException]
@[simp] theorem enterException_flags (s : State) : s.enterException.flags = s.flags := by simp [State.enterException]
@[simp] theorem enterException_sr (s : State) : s.enterException.sr = s.sr := by simp [State.enterException]
@[simp] theorem enterException_ipfx (s : State) : s.enterException.ipfx = none := rfl
@[simp] theorem enterException_tpfx (s : State) : s.enterException.tpfx = false := rfl
@[simp] theorem enterException_mem (s : State) : s.enterException.mem = s.mem := by simp [State.enterException]
@[simp] theorem enterException_irqPending (s : State) : s.enterException.irqPending = s.irqPending := by
  simp [State.enterException]
@[simp] theorem enterException_launch (s : State) : s.enterException.launch = s.launch := by simp [State.enterException]
@[simp] theorem enterException_ca (s : State) : s.enterException.ca = (s.setCa 13#4 s.pc).ca := rfl

/-! ### Checked access to memory -/

/-- Every byte of a run satisfies `p`. -/
theorem allBytes_iff (p : Word → Bool) (a : Word) (n : Nat) :
    allBytes p a n = true ↔ ∀ k < n, p (a + BitVec.ofNat 64 k) = true := by
  induction n generalizing a with
  | zero => simp [allBytes]
  | succ n ih =>
    have shift : ∀ k, a + 1#64 + BitVec.ofNat 64 k = a + BitVec.ofNat 64 (k + 1) := fun k => by
      rw [BitVec.add_assoc]; congr 1; apply BitVec.eq_of_toNat_eq; simp [BitVec.toNat_add]; omega
    simp only [allBytes, Bool.and_eq_true, ih, shift]
    constructor
    · rintro ⟨h0, h⟩ k hk
      cases k with
      | zero => simpa using h0
      | succ k => exact h k (by omega)
    · intro h
      exact ⟨by simpa using h 0 (by omega), fun k hk => h (k + 1) (by omega)⟩

/-- Some byte of a run satisfies `p`. -/
theorem anyByte_eq_not_allBytes (p : Word → Bool) (a : Word) (n : Nat) :
    anyByte p a n = !allBytes (fun b => !p b) a n := by
  induction n generalizing a with
  | zero => rfl
  | succ n ih => simp [anyByte, allBytes, ih]

/-- The checks of an access pass exactly if it is aligned, or need not be, and every byte exists (R84, R87). -/
theorem accessCheck_eq_none (s : State) (a : Word) (n : Nat) :
    s.accessCheck a n = none ↔
      (s.launch.misalignedMode = .fault → a.toNat % n = 0) ∧ allBytes s.present a n = true := by
  unfold State.accessCheck
  cases s.launch.misalignedMode <;> by_cases h : a.toNat % n = 0 <;> cases allBytes s.present a n <;> simp [h]

/-- A read: the checks pass and it goes on with the value, or it raises what the checks found (R84). -/
theorem memRead_cases (s : State) (a : Word) (n : Nat) (k : BitVec (8 * n) → Out) :
    (s.accessCheck a n = none ∧ memRead s a n k = k (Memory.readLE s.mem a n)) ∨
    (∃ e, s.accessCheck a n = some e ∧ memRead s a n k = raise e a s) := by
  unfold memRead
  cases s.accessCheck a n <;> simp

/-- A write: the checks pass and it goes on with the bytes written, or the bytes are program text and it refuses, or it
raises what the checks found (R85, R98). -/
theorem memWrite_cases (s : State) (a : Word) (n : Nat) (v : BitVec (8 * n)) (k : State → Out) :
    (s.accessCheck a n = none ∧ anyByte s.isText a n = false ∧
      memWrite s a n v k = k { s with mem := Memory.writeLE s.mem a n v }) ∨
    (s.accessCheck a n = none ∧ anyByte s.isText a n = true ∧ memWrite s a n v k = .refused .storeToText) ∨
    (∃ e, s.accessCheck a n = some e ∧ memWrite s a n v k = raise e a s) := by
  unfold memWrite
  cases s.accessCheck a n <;> cases anyByte s.isText a n <;> simp

/-! ### Interrupts -/

/-- Taking an interrupt: it refuses for want of `IRQ_TARGET`, or goes on at it with CA14 and SR written (R532). -/
theorem takeInterrupt_cases (src : IrqSource) (s : State) :
    (s.launch.irqTargetSupplied = false ∧ takeInterrupt src s = .refused .interruptWithoutTarget) ∨
    (s.launch.irqTargetSupplied = true ∧ takeInterrupt src s = .next { s.setCa 14#4 s.pc with
      sr := srOnInterrupt s.sr, pc := Config.irqTarget src (s.caReg 0#64 12#4) s.mem }) := by
  unfold takeInterrupt
  cases s.launch.irqTargetSupplied <;> simp

end Sys2Proof.Machine
end

