-- ==== Sys2Proof/Laws/Families.lean ====
section
/-! SUPPORT. For each operation that the instructions of a family share, one lemma that says once everything it can do. -/

namespace Sys2Proof.Machine

/-- The meanings that accept no prefix: they go on with their one next state, or refuse. -/
theorem noPrefixes_next_cases (s t : State) :
    (s.ipfx = none ∧ s.tpfx = false ∧ noPrefixes s (.next t) = .next t) ∨ ∃ r, noPrefixes s (.next t) = .refused r := by
  rcases noPrefixes_cases s (.next t) with ⟨hi, ht, e⟩ | ⟨_, e⟩
  · exact .inl ⟨hi, ht, e⟩
  · exact .inr e

theorem compareOp_cases (ft : FlagNum) (a b len : Word) (s : State) :
    (s.ipfx = none ∧ s.tpfx = false ∧ compareOp ft a b len s = .next ((s.setFlag ft (flagsSub a b)).finish len)) ∨
    ∃ r, compareOp ft a b len s = .refused r := noPrefixes_next_cases _ _

theorem signExtendOp_cases (n : Nat) (rt ra : RegNum) (s : State) :
    (s.ipfx = none ∧ s.tpfx = false ∧
      signExtendOp n rt ra s = .next (s.result rt (((s.reg ra).extractLsb' 0 n).signExtend 64) 4#64)) ∨
    ∃ r, signExtendOp n rt ra s = .refused r := noPrefixes_next_cases _ _

theorem shiftReg_cases (f : Word → Nat → Word) (rt ra rb : RegNum) (s : State) :
    (s.ipfx = none ∧ s.tpfx = false ∧
      shiftReg f rt ra rb s = .next (s.result rt (f (s.reg ra) (shiftAmount (s.reg rb))) 5#64)) ∨
    ∃ r, shiftReg f rt ra rb s = .refused r := noPrefixes_next_cases _ _

theorem shiftImm_cases (f : Word → Nat → Word) (rt ra : RegNum) (imm : BitVec 6) (s : State) :
    (s.ipfx = none ∧ s.tpfx = false ∧ shiftImm f rt ra imm s = .next (s.result rt (f (s.reg ra) imm.toNat) 5#64)) ∨
    ∃ r, shiftImm f rt ra imm s = .refused r := noPrefixes_next_cases _ _

theorem shortBranch_cases (c : Cond) (fa : FlagNum) (disp : BitVec 5) (s : State) :
    (s.ipfx = none ∧ s.tpfx = false ∧
      shortBranch c fa disp s = .next (s.jump (s.branchPc (condHolds c (s.flag fa)) 2#64 disp))) ∨
    ∃ r, shortBranch c fa disp s = .refused r := noPrefixes_next_cases _ _

theorem longBranch_cases (c : Cond) (fa : FlagNum) (disp : BitVec 13) (s : State) :
    (s.ipfx = none ∧ s.tpfx = false ∧
      longBranch c fa disp s = .next (s.jump (s.branchPc (condHolds c (s.flag fa)) 3#64 disp))) ∨
    ∃ r, longBranch c fa disp s = .refused r := noPrefixes_next_cases _ _

theorem regBranch_cases (p : Word → Bool) (ra : RegNum) (disp : BitVec 8) (s : State) :
    (s.ipfx = none ∧ s.tpfx = false ∧ regBranch p ra disp s = .next (s.jump (s.branchPc (p (s.reg ra)) 3#64 disp))) ∨
    ∃ r, regBranch p ra disp s = .refused r := noPrefixes_next_cases _ _

theorem jumpAndLink_cases (bd : CaNum) (target len : Word) (s : State) :
    (s.ipfx = none ∧ s.tpfx = false ∧ jumpAndLink bd target len s = .next ((s.setCa bd (s.pc + len)).jump target)) ∨
    ∃ r, jumpAndLink bd target len s = .refused r := noPrefixes_next_cases _ _

/-- ADD: it raises Overflow under a TRAPV if the sum overflows, else it writes the sum. -/
theorem addOp_cases (rt : RegNum) (a b len : Word) (s : State) :
    (s.tpfx = true ∧ addOverflows a b = true ∧ addOp rt a b len s = raise .overflow s.pc s) ∨
    ((s.tpfx = false ∨ addOverflows a b = false) ∧ addOp rt a b len s = .next (s.result rt (a + b) len)) := by
  unfold addOp
  cases s.tpfx <;> cases addOverflows a b <;> simp

theorem riOp_cases (f : Word → Word → Word) (rt ra : RegNum) (imm : BitVec 8) (s : State) :
    (∃ c, s.tpfx = false ∧ immConst s.ipfx imm = some c ∧
      riOp f rt ra imm s = .next (s.result rt (f (s.reg ra) c) 4#64)) ∨
    ∃ r, riOp f rt ra imm s = .refused r := by
  unfold riOp
  rcases noTrapv_cases s (withConst imm s fun c => .next (s.result rt (f (s.reg ra) c) 4#64)) with ⟨ht, e⟩ | ⟨_, e⟩
  · rw [e]
    rcases withConst_cases imm s (fun c => .next (s.result rt (f (s.reg ra) c) 4#64)) with ⟨c, hc, e'⟩ | ⟨_, e'⟩
    · exact .inl ⟨c, ht, hc, e'⟩
    · exact .inr ⟨_, e'⟩
  · exact .inr ⟨_, e⟩

theorem divOp_cases (corner : Word → Word → Bool) (f : Word → Word → Word) (rt ra : RegNum) (imm : BitVec 8) (s : State) :
    (∃ c, s.tpfx = false ∧ immConst s.ipfx imm = some c ∧ corner (s.reg ra) c = false ∧
      divOp corner f rt ra imm s = .next (s.result rt (f (s.reg ra) c) 4#64)) ∨
    ∃ r, divOp corner f rt ra imm s = .refused r := by
  unfold divOp noTrapv withConst
  cases s.tpfx
  · cases h : immConst s.ipfx imm with
    | none => simp
    | some c => cases hc : corner (s.reg ra) c <;> simp [hc]
  · simp

/-- A load: the value read, extended, to Rt; or it raises what the checks of the access found. -/
theorem loadSigned_cases (n : Nat) (rt : RegNum) (s : State) (ea : Word) :
    (s.accessCheck ea n = none ∧
      loadSigned n rt s ea = .next (s.result rt ((Memory.readLE s.mem ea n).signExtend 64) 4#64)) ∨
    ∃ e, s.accessCheck ea n = some e ∧ loadSigned n rt s ea = raise e ea s := memRead_cases _ _ _ _

theorem loadUnsigned_cases (n : Nat) (rt : RegNum) (s : State) (ea : Word) :
    (s.accessCheck ea n = none ∧
      loadUnsigned n rt s ea = .next (s.result rt ((Memory.readLE s.mem ea n).setWidth 64) 4#64)) ∨
    ∃ e, s.accessCheck ea n = some e ∧ loadUnsigned n rt s ea = raise e ea s := memRead_cases _ _ _ _

/-- A store: the bytes written; or it refuses the program text; or it raises what the checks found. -/
theorem store_cases (n : Nat) (rs : RegNum) (s : State) (ea : Word) :
    (s.accessCheck ea n = none ∧ anyByte s.isText ea n = false ∧
      store n rs s ea =
        .next (State.finish { s with mem := Memory.writeLE s.mem ea n ((s.reg rs).extractLsb' 0 (8 * n)) } 4#64)) ∨
    (s.accessCheck ea n = none ∧ anyByte s.isText ea n = true ∧ store n rs s ea = .refused .storeToText) ∨
    ∃ e, s.accessCheck ea n = some e ∧ store n rs s ea = raise e ea s := memWrite_cases _ _ _ _ _

/-- A push: the word written and SP moved down; or it refuses the program text; or it raises. -/
theorem pushWord_cases (v len : Word) (s : State) :
    (s.accessCheck (s.sp - 8#64) 8 = none ∧ anyByte s.isText (s.sp - 8#64) 8 = false ∧
      pushWord v len s =
        .next ((State.setSp { s with mem := Memory.writeLE s.mem (s.sp - 8#64) 8 v } (s.sp - 8#64)).finish len)) ∨
    (s.accessCheck (s.sp - 8#64) 8 = none ∧ anyByte s.isText (s.sp - 8#64) 8 = true ∧
      pushWord v len s = .refused .storeToText) ∨
    ∃ e, s.accessCheck (s.sp - 8#64) 8 = some e ∧ pushWord v len s = raise e (s.sp - 8#64) s := memWrite_cases _ _ _ _ _

/-- An immediate prefix: it becomes pending, or it is the second one and is refused. -/
theorem immPrefixOp_cases (p : ImmPrefix) (len : Word) (s : State) :
    (s.ipfx = none ∧ immPrefixOp p len s = .next { s with ipfx := some p, pc := s.pc + len }) ∨
    (s.ipfx ≠ none ∧ immPrefixOp p len s = .refused .secondImmPrefix) := by
  unfold immPrefixOp
  cases s.ipfx <;> simp

end Sys2Proof.Machine
end

