-- ==== Sys2Proof/Laws/Frames.lean ====
section
/-! SUPPORT. The frames of the shared ways an instruction ends, in the vocabulary of Sys2Proof/Safety.lean, and the checks of an
access in that vocabulary. -/

namespace Sys2Proof.Machine

/-! ### Ends of instructions -/

/-- A next state with the property completes. -/
theorem completes_next {t : State} {P : State → Prop} (h : P t) : Completes (.next t) P := ⟨t, rfl, h⟩

/-- Moving to `pc` changes nothing else. -/
theorem onlyPc_jump (s : State) (pc : Word) : OnlyPc pc s (s.jump pc) where
  regs _ := by simp
  ca _ _ h := by simp [h]
  flags _ := by simp
  bytes _ := by simp
  sr := by simp
  ends := by constructor <;> simp

/-- Writing a general register and moving to `pc`. -/
theorem onlyReg_jump (s : State) (rt : RegNum) (v pc : Word) : OnlyReg rt v pc s ((s.setReg rt v).jump pc) where
  regs := ⟨fun r hr => by simp [hr], fun h => by simp [h]⟩
  ca _ _ h := by simp [h]
  flags _ := by simp
  bytes _ := by simp
  sr := by simp
  ends := by constructor <;> simp

/-- The end of an instruction whose one effect is to write a general register. -/
theorem onlyReg_result (s : State) (rt : RegNum) (v len : Word) : OnlyReg rt v (s.pc + len) s (s.result rt v len) := by
  simpa [State.result, State.finish] using onlyReg_jump s rt v (s.pc + len)

/-- Writing a flag register and moving on. -/
theorem onlyFlag_finish (s : State) (ft : FlagNum) (v : BitVec 4) (len : Word) :
    OnlyFlag ft v (s.pc + len) s ((s.setFlag ft v).finish len) where
  regs _ := by simp
  ca _ _ h := by simp [h]
  flags _ := by simp [flag_setFlag]
  bytes _ := by simp
  sr := by simp
  ends := by constructor <;> simp

/-- Writing a code address register and moving to `pc`. -/
theorem onlyCa_jump (s : State) (bd : CaNum) (v pc : Word) : OnlyCa bd v pc s ((s.setCa bd v).jump pc) where
  regs _ := by simp
  ca i len h := by
    simp only [jump_caReg _ _ _ _ h, caReg_setCa]
    by_cases e : i = bd
    · subst e; simp [h]
    · simp [e]
  flags _ := by simp
  bytes _ := by simp
  sr := by simp
  ends := by constructor <;> simp

/-! ### Exceptions -/

/-- The state that exception entry leaves, its pc set. -/
theorem entered (s : State) (pc : Word) : Entered pc s { s.enterException with pc := pc } := by
  have h := onlyCa_jump s 13#4 s.pc pc
  rwa [show (s.setCa 13#4 s.pc).jump pc = { s.enterException with pc := pc } by
    unfold State.enterException State.jump State.setCa; simp] at h

/-- The state that exception entry leaves, its pc the raising instruction's. -/
theorem entered_pc (s : State) : Entered s.pc s s.enterException := by
  have h := entered s s.pc
  rwa [show ({ s.enterException with pc := s.pc } : State) = s.enterException by
    unfold State.enterException State.setCa; simp] at h

/-- `raise` raises, in the sense of the statements. -/
theorem raises (e : Exn) (info : Word) (s : State) : Raises e info s (raise e info s) :=
  ⟨fun h => ⟨s.enterException, by simp [raise, h], entered_pc s⟩, fun h => ⟨_, by simp [raise, h], entered s _⟩⟩

/-! ### The checks of an access -/

/-- The checks, in the vocabulary of the statements. -/
theorem accessCheck_eq (s : State) (a : Word) (n : Nat) [Decidable (MisalignedAt s a n)] :
    s.accessCheck a n = if MisalignedAt s a n then some .misaligned
      else if allBytes s.present a n then none else some .accessFault := by
  unfold State.accessCheck MisalignedAt
  congr

/-- An access that is misaligned, where that is a fault. -/
theorem accessCheck_of_misaligned {s : State} {a : Word} {n : Nat} (h : MisalignedAt s a n) :
    s.accessCheck a n = some .misaligned := if_pos h

/-- An access whose bytes do not all exist. -/
theorem accessCheck_of_absent {s : State} {a : Word} {n : Nat} (h : AbsentAt s a n) :
    s.accessCheck a n = some .accessFault := by
  obtain ⟨aligned, k, hk, e⟩ := h
  classical
  rw [accessCheck_eq, if_neg aligned, if_neg]
  intro all
  exact absurd ((allBytes_iff _ _ _).1 all k hk) (by rw [show s.present (a + BitVec.ofNat 64 k) = false from e]; decide)

/-- An access that passes. -/
theorem accessCheck_of_accessible {s : State} {a : Word} {n : Nat} (h : Accessible s a n) : s.accessCheck a n = none := by
  classical
  rw [accessCheck_eq, if_neg h.1, if_pos ((allBytes_iff _ _ _).2 h.2)]

/-- No byte of the run is program text. -/
theorem anyByte_isText_iff (s : State) (a : Word) (n : Nat) : anyByte s.isText a n = false ↔ NotText s a n := by
  rw [anyByte_eq_not_allBytes, Bool.not_eq_false', allBytes_iff]
  simp [NotText, nth]

/-- A store that is made. -/
theorem memWrite_of_storable {s : State} {a : Word} {n : Nat} {v : BitVec (8 * n)} {k : State → Out} (h : Storable s a n) :
    memWrite s a n v k = k { s with mem := Memory.writeLE s.mem a n v } := by
  simp [memWrite, accessCheck_of_accessible h.accessible, (anyByte_isText_iff s a n).2 h.notText]

/-- What a store of the low `n` bytes of `v` does to memory. -/
theorem writesBytes_writeLE {s t : State} {a v : Word} {n : Nat} (hn : n ≤ 8) (h : Memory.wf s.mem = true)
    (ht : t.mem = Memory.writeLE s.mem a n (v.extractLsb' 0 (8 * n))) : WritesBytes a n v s t := by
  intro b
  unfold State.byteAt
  rw [ht, Memory.read_writeLE h a b n (by omega)]
  split
  · rename_i hlt
    apply BitVec.eq_of_getLsbD_eq
    intro i hi
    simp only [BitVec.getLsbD_extractLsb', hi, show 8 * (b - a).toNat + i < 8 * n by omega, decide_true, Bool.true_and,
      Nat.zero_add]
  · rfl

/-- The end of a store. -/
theorem onlyBytes_finish (s : State) (a v : Word) (n : Nat) (len : Word) (hn : n ≤ 8) (h : Memory.wf s.mem = true) :
    OnlyBytes a n v (s.pc + len) s
      (State.finish { s with mem := Memory.writeLE s.mem a n (v.extractLsb' 0 (8 * n)) } len) where
  regs _ := by simp; exact reg_congr rfl _
  ca _ _ h := by simp [h]; exact caReg_congr rfl _ _ _ h
  flags _ := by simp; exact flag_congr rfl _
  bytes := writesBytes_writeLE hn h (by simp)
  sr := by simp
  ends := by constructor <;> simp

end Sys2Proof.Machine
end

