-- ==== Sys2Proof/Laws/PerInstr.lean ====
section
/-! SUPPORT. Per-instruction lemmas about the syntax: every instruction is encoded in the number of bytes of R121, which is 1
to 9 (R120). -/

namespace Sys2Proof.Laws.EncodeLength

/-- The encoding has the instruction's length, and that is 1 to 9 bytes. -/
def Statement (i : Instr) : Prop := (encode i).length = i.length ∧ 1 ≤ i.length ∧ i.length ≤ maxLength

theorem brk : Statement (.brk) := ⟨rfl, Nat.le_of_ble_eq_true rfl, Nat.le_of_ble_eq_true rfl⟩
theorem sxb (rt : RegNum) (ra : RegNum) : Statement (.sxb rt ra) := ⟨rfl, Nat.le_of_ble_eq_true rfl, Nat.le_of_ble_eq_true rfl⟩
theorem sxc (rt : RegNum) (ra : RegNum) : Statement (.sxc rt ra) := ⟨rfl, Nat.le_of_ble_eq_true rfl, Nat.le_of_ble_eq_true rfl⟩
theorem sxh (rt : RegNum) (ra : RegNum) : Statement (.sxh rt ra) := ⟨rfl, Nat.le_of_ble_eq_true rfl, Nat.le_of_ble_eq_true rfl⟩
theorem addR (rt : RegNum) (ra : RegNum) (rb : RegNum) : Statement (.addR rt ra rb) := ⟨rfl, Nat.le_of_ble_eq_true rfl, Nat.le_of_ble_eq_true rfl⟩
theorem andR (rt : RegNum) (ra : RegNum) (rb : RegNum) : Statement (.andR rt ra rb) := ⟨rfl, Nat.le_of_ble_eq_true rfl, Nat.le_of_ble_eq_true rfl⟩
theorem shlR (rt : RegNum) (ra : RegNum) (rb : RegNum) : Statement (.shlR rt ra rb) := ⟨rfl, Nat.le_of_ble_eq_true rfl, Nat.le_of_ble_eq_true rfl⟩
theorem rolR (rt : RegNum) (ra : RegNum) (rb : RegNum) : Statement (.rolR rt ra rb) := ⟨rfl, Nat.le_of_ble_eq_true rfl, Nat.le_of_ble_eq_true rfl⟩
theorem shrR (rt : RegNum) (ra : RegNum) (rb : RegNum) : Statement (.shrR rt ra rb) := ⟨rfl, Nat.le_of_ble_eq_true rfl, Nat.le_of_ble_eq_true rfl⟩
theorem rorR (rt : RegNum) (ra : RegNum) (rb : RegNum) : Statement (.rorR rt ra rb) := ⟨rfl, Nat.le_of_ble_eq_true rfl, Nat.le_of_ble_eq_true rfl⟩
theorem asrR (rt : RegNum) (ra : RegNum) (rb : RegNum) : Statement (.asrR rt ra rb) := ⟨rfl, Nat.le_of_ble_eq_true rfl, Nat.le_of_ble_eq_true rfl⟩
theorem shlI (rt : RegNum) (ra : RegNum) (imm : BitVec 6) : Statement (.shlI rt ra imm) := ⟨rfl, Nat.le_of_ble_eq_true rfl, Nat.le_of_ble_eq_true rfl⟩
theorem rolI (rt : RegNum) (ra : RegNum) (imm : BitVec 6) : Statement (.rolI rt ra imm) := ⟨rfl, Nat.le_of_ble_eq_true rfl, Nat.le_of_ble_eq_true rfl⟩
theorem shrI (rt : RegNum) (ra : RegNum) (imm : BitVec 6) : Statement (.shrI rt ra imm) := ⟨rfl, Nat.le_of_ble_eq_true rfl, Nat.le_of_ble_eq_true rfl⟩
theorem rorI (rt : RegNum) (ra : RegNum) (imm : BitVec 6) : Statement (.rorI rt ra imm) := ⟨rfl, Nat.le_of_ble_eq_true rfl, Nat.le_of_ble_eq_true rfl⟩
theorem asrI (rt : RegNum) (ra : RegNum) (imm : BitVec 6) : Statement (.asrI rt ra imm) := ⟨rfl, Nat.le_of_ble_eq_true rfl, Nat.le_of_ble_eq_true rfl⟩
theorem tst (ft : FlagNum) (ra : RegNum) : Statement (.tst ft ra) := ⟨rfl, Nat.le_of_ble_eq_true rfl, Nat.le_of_ble_eq_true rfl⟩
theorem cmpi (ft : FlagNum) (ra : RegNum) (imm : BitVec 8) : Statement (.cmpi ft ra imm) := ⟨rfl, Nat.le_of_ble_eq_true rfl, Nat.le_of_ble_eq_true rfl⟩
theorem cmp (ft : FlagNum) (ra : RegNum) (rb : RegNum) : Statement (.cmp ft ra rb) := ⟨rfl, Nat.le_of_ble_eq_true rfl, Nat.le_of_ble_eq_true rfl⟩
theorem addI (rt : RegNum) (ra : RegNum) (imm : BitVec 8) : Statement (.addI rt ra imm) := ⟨rfl, Nat.le_of_ble_eq_true rfl, Nat.le_of_ble_eq_true rfl⟩
theorem subI (rt : RegNum) (ra : RegNum) (imm : BitVec 8) : Statement (.subI rt ra imm) := ⟨rfl, Nat.le_of_ble_eq_true rfl, Nat.le_of_ble_eq_true rfl⟩
theorem mulI (rt : RegNum) (ra : RegNum) (imm : BitVec 8) : Statement (.mulI rt ra imm) := ⟨rfl, Nat.le_of_ble_eq_true rfl, Nat.le_of_ble_eq_true rfl⟩
theorem divI (rt : RegNum) (ra : RegNum) (imm : BitVec 8) : Statement (.divI rt ra imm) := ⟨rfl, Nat.le_of_ble_eq_true rfl, Nat.le_of_ble_eq_true rfl⟩
theorem remI (rt : RegNum) (ra : RegNum) (imm : BitVec 8) : Statement (.remI rt ra imm) := ⟨rfl, Nat.le_of_ble_eq_true rfl, Nat.le_of_ble_eq_true rfl⟩
theorem andI (rt : RegNum) (ra : RegNum) (imm : BitVec 8) : Statement (.andI rt ra imm) := ⟨rfl, Nat.le_of_ble_eq_true rfl, Nat.le_of_ble_eq_true rfl⟩
theorem orI (rt : RegNum) (ra : RegNum) (imm : BitVec 8) : Statement (.orI rt ra imm) := ⟨rfl, Nat.le_of_ble_eq_true rfl, Nat.le_of_ble_eq_true rfl⟩
theorem eorI (rt : RegNum) (ra : RegNum) (imm : BitVec 8) : Statement (.eorI rt ra imm) := ⟨rfl, Nat.le_of_ble_eq_true rfl, Nat.le_of_ble_eq_true rfl⟩
theorem seqI (rt : RegNum) (ra : RegNum) (imm : BitVec 8) : Statement (.seqI rt ra imm) := ⟨rfl, Nat.le_of_ble_eq_true rfl, Nat.le_of_ble_eq_true rfl⟩
theorem sneI (rt : RegNum) (ra : RegNum) (imm : BitVec 8) : Statement (.sneI rt ra imm) := ⟨rfl, Nat.le_of_ble_eq_true rfl, Nat.le_of_ble_eq_true rfl⟩
theorem muluI (rt : RegNum) (ra : RegNum) (imm : BitVec 8) : Statement (.muluI rt ra imm) := ⟨rfl, Nat.le_of_ble_eq_true rfl, Nat.le_of_ble_eq_true rfl⟩
theorem divuI (rt : RegNum) (ra : RegNum) (imm : BitVec 8) : Statement (.divuI rt ra imm) := ⟨rfl, Nat.le_of_ble_eq_true rfl, Nat.le_of_ble_eq_true rfl⟩
theorem remuI (rt : RegNum) (ra : RegNum) (imm : BitVec 8) : Statement (.remuI rt ra imm) := ⟨rfl, Nat.le_of_ble_eq_true rfl, Nat.le_of_ble_eq_true rfl⟩
theorem sgtI (rt : RegNum) (ra : RegNum) (imm : BitVec 8) : Statement (.sgtI rt ra imm) := ⟨rfl, Nat.le_of_ble_eq_true rfl, Nat.le_of_ble_eq_true rfl⟩
theorem sleI (rt : RegNum) (ra : RegNum) (imm : BitVec 8) : Statement (.sleI rt ra imm) := ⟨rfl, Nat.le_of_ble_eq_true rfl, Nat.le_of_ble_eq_true rfl⟩
theorem sgeI (rt : RegNum) (ra : RegNum) (imm : BitVec 8) : Statement (.sgeI rt ra imm) := ⟨rfl, Nat.le_of_ble_eq_true rfl, Nat.le_of_ble_eq_true rfl⟩
theorem sltI (rt : RegNum) (ra : RegNum) (imm : BitVec 8) : Statement (.sltI rt ra imm) := ⟨rfl, Nat.le_of_ble_eq_true rfl, Nat.le_of_ble_eq_true rfl⟩
theorem shiI (rt : RegNum) (ra : RegNum) (imm : BitVec 8) : Statement (.shiI rt ra imm) := ⟨rfl, Nat.le_of_ble_eq_true rfl, Nat.le_of_ble_eq_true rfl⟩
theorem slsI (rt : RegNum) (ra : RegNum) (imm : BitVec 8) : Statement (.slsI rt ra imm) := ⟨rfl, Nat.le_of_ble_eq_true rfl, Nat.le_of_ble_eq_true rfl⟩
theorem shsI (rt : RegNum) (ra : RegNum) (imm : BitVec 8) : Statement (.shsI rt ra imm) := ⟨rfl, Nat.le_of_ble_eq_true rfl, Nat.le_of_ble_eq_true rfl⟩
theorem sloI (rt : RegNum) (ra : RegNum) (imm : BitVec 8) : Statement (.sloI rt ra imm) := ⟨rfl, Nat.le_of_ble_eq_true rfl, Nat.le_of_ble_eq_true rfl⟩
theorem beq (fa : FlagNum) (disp : BitVec 5) : Statement (.beq fa disp) := ⟨rfl, Nat.le_of_ble_eq_true rfl, Nat.le_of_ble_eq_true rfl⟩
theorem bne (fa : FlagNum) (disp : BitVec 5) : Statement (.bne fa disp) := ⟨rfl, Nat.le_of_ble_eq_true rfl, Nat.le_of_ble_eq_true rfl⟩
theorem bvs (fa : FlagNum) (disp : BitVec 5) : Statement (.bvs fa disp) := ⟨rfl, Nat.le_of_ble_eq_true rfl, Nat.le_of_ble_eq_true rfl⟩
theorem bvc (fa : FlagNum) (disp : BitVec 5) : Statement (.bvc fa disp) := ⟨rfl, Nat.le_of_ble_eq_true rfl, Nat.le_of_ble_eq_true rfl⟩
theorem bmi (fa : FlagNum) (disp : BitVec 5) : Statement (.bmi fa disp) := ⟨rfl, Nat.le_of_ble_eq_true rfl, Nat.le_of_ble_eq_true rfl⟩
theorem bpl (fa : FlagNum) (disp : BitVec 5) : Statement (.bpl fa disp) := ⟨rfl, Nat.le_of_ble_eq_true rfl, Nat.le_of_ble_eq_true rfl⟩
theorem bra (fa : FlagNum) (disp : BitVec 5) : Statement (.bra fa disp) := ⟨rfl, Nat.le_of_ble_eq_true rfl, Nat.le_of_ble_eq_true rfl⟩
theorem bnv (fa : FlagNum) (disp : BitVec 5) : Statement (.bnv fa disp) := ⟨rfl, Nat.le_of_ble_eq_true rfl, Nat.le_of_ble_eq_true rfl⟩
theorem bgt (fa : FlagNum) (disp : BitVec 5) : Statement (.bgt fa disp) := ⟨rfl, Nat.le_of_ble_eq_true rfl, Nat.le_of_ble_eq_true rfl⟩
theorem ble (fa : FlagNum) (disp : BitVec 5) : Statement (.ble fa disp) := ⟨rfl, Nat.le_of_ble_eq_true rfl, Nat.le_of_ble_eq_true rfl⟩
theorem bge (fa : FlagNum) (disp : BitVec 5) : Statement (.bge fa disp) := ⟨rfl, Nat.le_of_ble_eq_true rfl, Nat.le_of_ble_eq_true rfl⟩
theorem blt (fa : FlagNum) (disp : BitVec 5) : Statement (.blt fa disp) := ⟨rfl, Nat.le_of_ble_eq_true rfl, Nat.le_of_ble_eq_true rfl⟩
theorem bhi (fa : FlagNum) (disp : BitVec 5) : Statement (.bhi fa disp) := ⟨rfl, Nat.le_of_ble_eq_true rfl, Nat.le_of_ble_eq_true rfl⟩
theorem bls (fa : FlagNum) (disp : BitVec 5) : Statement (.bls fa disp) := ⟨rfl, Nat.le_of_ble_eq_true rfl, Nat.le_of_ble_eq_true rfl⟩
theorem bhs (fa : FlagNum) (disp : BitVec 5) : Statement (.bhs fa disp) := ⟨rfl, Nat.le_of_ble_eq_true rfl, Nat.le_of_ble_eq_true rfl⟩
theorem blo (fa : FlagNum) (disp : BitVec 5) : Statement (.blo fa disp) := ⟨rfl, Nat.le_of_ble_eq_true rfl, Nat.le_of_ble_eq_true rfl⟩
theorem lbeq (fa : FlagNum) (disp : BitVec 13) : Statement (.lbeq fa disp) := ⟨rfl, Nat.le_of_ble_eq_true rfl, Nat.le_of_ble_eq_true rfl⟩
theorem lbne (fa : FlagNum) (disp : BitVec 13) : Statement (.lbne fa disp) := ⟨rfl, Nat.le_of_ble_eq_true rfl, Nat.le_of_ble_eq_true rfl⟩
theorem lbvs (fa : FlagNum) (disp : BitVec 13) : Statement (.lbvs fa disp) := ⟨rfl, Nat.le_of_ble_eq_true rfl, Nat.le_of_ble_eq_true rfl⟩
theorem lbvc (fa : FlagNum) (disp : BitVec 13) : Statement (.lbvc fa disp) := ⟨rfl, Nat.le_of_ble_eq_true rfl, Nat.le_of_ble_eq_true rfl⟩
theorem lbmi (fa : FlagNum) (disp : BitVec 13) : Statement (.lbmi fa disp) := ⟨rfl, Nat.le_of_ble_eq_true rfl, Nat.le_of_ble_eq_true rfl⟩
theorem lbpl (fa : FlagNum) (disp : BitVec 13) : Statement (.lbpl fa disp) := ⟨rfl, Nat.le_of_ble_eq_true rfl, Nat.le_of_ble_eq_true rfl⟩
theorem lbra (fa : FlagNum) (disp : BitVec 13) : Statement (.lbra fa disp) := ⟨rfl, Nat.le_of_ble_eq_true rfl, Nat.le_of_ble_eq_true rfl⟩
theorem lbnv (fa : FlagNum) (disp : BitVec 13) : Statement (.lbnv fa disp) := ⟨rfl, Nat.le_of_ble_eq_true rfl, Nat.le_of_ble_eq_true rfl⟩
theorem lbgt (fa : FlagNum) (disp : BitVec 13) : Statement (.lbgt fa disp) := ⟨rfl, Nat.le_of_ble_eq_true rfl, Nat.le_of_ble_eq_true rfl⟩
theorem lble (fa : FlagNum) (disp : BitVec 13) : Statement (.lble fa disp) := ⟨rfl, Nat.le_of_ble_eq_true rfl, Nat.le_of_ble_eq_true rfl⟩
theorem lbge (fa : FlagNum) (disp : BitVec 13) : Statement (.lbge fa disp) := ⟨rfl, Nat.le_of_ble_eq_true rfl, Nat.le_of_ble_eq_true rfl⟩
theorem lblt (fa : FlagNum) (disp : BitVec 13) : Statement (.lblt fa disp) := ⟨rfl, Nat.le_of_ble_eq_true rfl, Nat.le_of_ble_eq_true rfl⟩
theorem lbhi (fa : FlagNum) (disp : BitVec 13) : Statement (.lbhi fa disp) := ⟨rfl, Nat.le_of_ble_eq_true rfl, Nat.le_of_ble_eq_true rfl⟩
theorem lbls (fa : FlagNum) (disp : BitVec 13) : Statement (.lbls fa disp) := ⟨rfl, Nat.le_of_ble_eq_true rfl, Nat.le_of_ble_eq_true rfl⟩
theorem lbhs (fa : FlagNum) (disp : BitVec 13) : Statement (.lbhs fa disp) := ⟨rfl, Nat.le_of_ble_eq_true rfl, Nat.le_of_ble_eq_true rfl⟩
theorem lblo (fa : FlagNum) (disp : BitVec 13) : Statement (.lblo fa disp) := ⟨rfl, Nat.le_of_ble_eq_true rfl, Nat.le_of_ble_eq_true rfl⟩
theorem jalr (bd : CaNum) (bs : CaNum) : Statement (.jalr bd bs) := ⟨rfl, Nat.le_of_ble_eq_true rfl, Nat.le_of_ble_eq_true rfl⟩
theorem jalr24 (bd : CaNum) (bs : CaNum) (disp : BitVec 24) : Statement (.jalr24 bd bs disp) := ⟨rfl, Nat.le_of_ble_eq_true rfl, Nat.le_of_ble_eq_true rfl⟩
theorem trapv : Statement (.trapv) := ⟨rfl, Nat.le_of_ble_eq_true rfl, Nat.le_of_ble_eq_true rfl⟩
theorem ret : Statement (.ret) := ⟨rfl, Nat.le_of_ble_eq_true rfl, Nat.le_of_ble_eq_true rfl⟩
theorem brz (ra : RegNum) (disp : BitVec 8) : Statement (.brz ra disp) := ⟨rfl, Nat.le_of_ble_eq_true rfl, Nat.le_of_ble_eq_true rfl⟩
theorem brnz (ra : RegNum) (disp : BitVec 8) : Statement (.brnz ra disp) := ⟨rfl, Nat.le_of_ble_eq_true rfl, Nat.le_of_ble_eq_true rfl⟩
theorem brmi (ra : RegNum) (disp : BitVec 8) : Statement (.brmi ra disp) := ⟨rfl, Nat.le_of_ble_eq_true rfl, Nat.le_of_ble_eq_true rfl⟩
theorem brpl (ra : RegNum) (disp : BitVec 8) : Statement (.brpl ra disp) := ⟨rfl, Nat.le_of_ble_eq_true rfl, Nat.le_of_ble_eq_true rfl⟩
theorem dbnz (ra : RegNum) (disp : BitVec 8) : Statement (.dbnz ra disp) := ⟨rfl, Nat.le_of_ble_eq_true rfl, Nat.le_of_ble_eq_true rfl⟩
theorem lb (rt : RegNum) (ra : RegNum) (disp : BitVec 8) : Statement (.lb rt ra disp) := ⟨rfl, Nat.le_of_ble_eq_true rfl, Nat.le_of_ble_eq_true rfl⟩
theorem lbu (rt : RegNum) (ra : RegNum) (disp : BitVec 8) : Statement (.lbu rt ra disp) := ⟨rfl, Nat.le_of_ble_eq_true rfl, Nat.le_of_ble_eq_true rfl⟩
theorem lc (rt : RegNum) (ra : RegNum) (disp : BitVec 8) : Statement (.lc rt ra disp) := ⟨rfl, Nat.le_of_ble_eq_true rfl, Nat.le_of_ble_eq_true rfl⟩
theorem lcu (rt : RegNum) (ra : RegNum) (disp : BitVec 8) : Statement (.lcu rt ra disp) := ⟨rfl, Nat.le_of_ble_eq_true rfl, Nat.le_of_ble_eq_true rfl⟩
theorem lh (rt : RegNum) (ra : RegNum) (disp : BitVec 8) : Statement (.lh rt ra disp) := ⟨rfl, Nat.le_of_ble_eq_true rfl, Nat.le_of_ble_eq_true rfl⟩
theorem lhu (rt : RegNum) (ra : RegNum) (disp : BitVec 8) : Statement (.lhu rt ra disp) := ⟨rfl, Nat.le_of_ble_eq_true rfl, Nat.le_of_ble_eq_true rfl⟩
theorem lw (rt : RegNum) (ra : RegNum) (disp : BitVec 8) : Statement (.lw rt ra disp) := ⟨rfl, Nat.le_of_ble_eq_true rfl, Nat.le_of_ble_eq_true rfl⟩
theorem lea (rt : RegNum) (ra : RegNum) (disp : BitVec 8) : Statement (.lea rt ra disp) := ⟨rfl, Nat.le_of_ble_eq_true rfl, Nat.le_of_ble_eq_true rfl⟩
theorem lbx (rt : RegNum) (ra : RegNum) (rb : RegNum) : Statement (.lbx rt ra rb) := ⟨rfl, Nat.le_of_ble_eq_true rfl, Nat.le_of_ble_eq_true rfl⟩
theorem lbux (rt : RegNum) (ra : RegNum) (rb : RegNum) : Statement (.lbux rt ra rb) := ⟨rfl, Nat.le_of_ble_eq_true rfl, Nat.le_of_ble_eq_true rfl⟩
theorem lcx (rt : RegNum) (ra : RegNum) (rb : RegNum) : Statement (.lcx rt ra rb) := ⟨rfl, Nat.le_of_ble_eq_true rfl, Nat.le_of_ble_eq_true rfl⟩
theorem lcux (rt : RegNum) (ra : RegNum) (rb : RegNum) : Statement (.lcux rt ra rb) := ⟨rfl, Nat.le_of_ble_eq_true rfl, Nat.le_of_ble_eq_true rfl⟩
theorem lhx (rt : RegNum) (ra : RegNum) (rb : RegNum) : Statement (.lhx rt ra rb) := ⟨rfl, Nat.le_of_ble_eq_true rfl, Nat.le_of_ble_eq_true rfl⟩
theorem lhux (rt : RegNum) (ra : RegNum) (rb : RegNum) : Statement (.lhux rt ra rb) := ⟨rfl, Nat.le_of_ble_eq_true rfl, Nat.le_of_ble_eq_true rfl⟩
theorem lwx (rt : RegNum) (ra : RegNum) (rb : RegNum) : Statement (.lwx rt ra rb) := ⟨rfl, Nat.le_of_ble_eq_true rfl, Nat.le_of_ble_eq_true rfl⟩
theorem leax (rt : RegNum) (ra : RegNum) (rb : RegNum) : Statement (.leax rt ra rb) := ⟨rfl, Nat.le_of_ble_eq_true rfl, Nat.le_of_ble_eq_true rfl⟩
theorem cas (rt : RegNum) (rb : RegNum) (rc : RegNum) (ra : RegNum) : Statement (.cas rt rb rc ra) := ⟨rfl, Nat.le_of_ble_eq_true rfl, Nat.le_of_ble_eq_true rfl⟩
theorem sb (rs : RegNum) (ra : RegNum) (disp : BitVec 8) : Statement (.sb rs ra disp) := ⟨rfl, Nat.le_of_ble_eq_true rfl, Nat.le_of_ble_eq_true rfl⟩
theorem sc (rs : RegNum) (ra : RegNum) (disp : BitVec 8) : Statement (.sc rs ra disp) := ⟨rfl, Nat.le_of_ble_eq_true rfl, Nat.le_of_ble_eq_true rfl⟩
theorem sh (rs : RegNum) (ra : RegNum) (disp : BitVec 8) : Statement (.sh rs ra disp) := ⟨rfl, Nat.le_of_ble_eq_true rfl, Nat.le_of_ble_eq_true rfl⟩
theorem sw (rs : RegNum) (ra : RegNum) (disp : BitVec 8) : Statement (.sw rs ra disp) := ⟨rfl, Nat.le_of_ble_eq_true rfl, Nat.le_of_ble_eq_true rfl⟩
theorem cinv : Statement (.cinv) := ⟨rfl, Nat.le_of_ble_eq_true rfl, Nat.le_of_ble_eq_true rfl⟩
theorem sws : Statement (.sws) := ⟨rfl, Nat.le_of_ble_eq_true rfl, Nat.le_of_ble_eq_true rfl⟩
theorem push (ra : RegNum) : Statement (.push ra) := ⟨rfl, Nat.le_of_ble_eq_true rfl, Nat.le_of_ble_eq_true rfl⟩
theorem pop (rt : RegNum) : Statement (.pop rt) := ⟨rfl, Nat.le_of_ble_eq_true rfl, Nat.le_of_ble_eq_true rfl⟩
theorem sbx (rs : RegNum) (ra : RegNum) (rb : RegNum) : Statement (.sbx rs ra rb) := ⟨rfl, Nat.le_of_ble_eq_true rfl, Nat.le_of_ble_eq_true rfl⟩
theorem scx (rs : RegNum) (ra : RegNum) (rb : RegNum) : Statement (.scx rs ra rb) := ⟨rfl, Nat.le_of_ble_eq_true rfl, Nat.le_of_ble_eq_true rfl⟩
theorem shx (rs : RegNum) (ra : RegNum) (rb : RegNum) : Statement (.shx rs ra rb) := ⟨rfl, Nat.le_of_ble_eq_true rfl, Nat.le_of_ble_eq_true rfl⟩
theorem swx (rs : RegNum) (ra : RegNum) (rb : RegNum) : Statement (.swx rs ra rb) := ⟨rfl, Nat.le_of_ble_eq_true rfl, Nat.le_of_ble_eq_true rfl⟩
theorem cinvx : Statement (.cinvx) := ⟨rfl, Nat.le_of_ble_eq_true rfl, Nat.le_of_ble_eq_true rfl⟩
theorem pushc (imm : BitVec 16) : Statement (.pushc imm) := ⟨rfl, Nat.le_of_ble_eq_true rfl, Nat.le_of_ble_eq_true rfl⟩
theorem nop : Statement (.nop) := ⟨rfl, Nat.le_of_ble_eq_true rfl, Nat.le_of_ble_eq_true rfl⟩
theorem imm8 (p : BitVec 8) : Statement (.imm8 p) := ⟨rfl, Nat.le_of_ble_eq_true rfl, Nat.le_of_ble_eq_true rfl⟩
theorem imm16 (p : BitVec 16) : Statement (.imm16 p) := ⟨rfl, Nat.le_of_ble_eq_true rfl, Nat.le_of_ble_eq_true rfl⟩
theorem imm24 (p : BitVec 24) : Statement (.imm24 p) := ⟨rfl, Nat.le_of_ble_eq_true rfl, Nat.le_of_ble_eq_true rfl⟩
theorem imm32 (p : BitVec 32) : Statement (.imm32 p) := ⟨rfl, Nat.le_of_ble_eq_true rfl, Nat.le_of_ble_eq_true rfl⟩
theorem imm40 (p : BitVec 40) : Statement (.imm40 p) := ⟨rfl, Nat.le_of_ble_eq_true rfl, Nat.le_of_ble_eq_true rfl⟩
theorem imm48 (p : BitVec 48) : Statement (.imm48 p) := ⟨rfl, Nat.le_of_ble_eq_true rfl, Nat.le_of_ble_eq_true rfl⟩
theorem imm56 (p : BitVec 56) : Statement (.imm56 p) := ⟨rfl, Nat.le_of_ble_eq_true rfl, Nat.le_of_ble_eq_true rfl⟩
theorem imm64 (p : BitVec 64) : Statement (.imm64 p) := ⟨rfl, Nat.le_of_ble_eq_true rfl, Nat.le_of_ble_eq_true rfl⟩
theorem cli : Statement (.cli) := ⟨rfl, Nat.le_of_ble_eq_true rfl, Nat.le_of_ble_eq_true rfl⟩

end Sys2Proof.Laws.EncodeLength
end

