-- ==== Sys2Proof/Laws/Step.lean ====
section
/-! SUPPORT. What fetch and one step can do. -/

namespace Sys2Proof.Machine

/-- Fetch answers an instruction that the bytes decode to, or one of its two exceptions (R86, R144). -/
theorem fetch_cases (s : State) :
    (∃ len bytes i rest, s.present s.pc = true ∧ opcodeLength (s.byteAt s.pc) = some len ∧
      fetchBytes s s.pc len = some bytes ∧ decode bytes = .ok (i, rest) ∧ fetch s = .ok i) ∨
    fetch s = .error .illegalInstruction ∨ fetch s = .error .accessFault := by
  unfold fetch
  split
  · rename_i hp
    split
    · exact .inr (.inl rfl)
    · rename_i len hl
      split
      · exact .inr (.inr rfl)
      · rename_i bytes hb
        split
        · rename_i i rest hd
          exact .inl ⟨len, bytes, i, rest, hp, hl, hb, hd, rfl⟩
        · exact .inr (.inl rfl)
  · exact .inr (.inr rfl)

/-- A step takes an interrupt, or runs the instruction fetched, or raises at the pc what fetch found (R60). -/
theorem step_cases (s : State) :
    (∃ src, s.irqToTake = some src ∧ step s = takeInterrupt src s) ∨
    (s.irqToTake = none ∧ ∃ i, fetch s = .ok i ∧ step s = exec i s) ∨
    (s.irqToTake = none ∧ ∃ e, fetch s = .error e ∧ step s = raise e s.pc s) := by
  unfold step
  cases h : s.irqToTake with
  | some src => exact .inl ⟨src, rfl, rfl⟩
  | none =>
    cases hf : fetch s with
    | ok i => exact .inr (.inl ⟨rfl, i, rfl, rfl⟩)
    | error e => exact .inr (.inr ⟨rfl, e, rfl, rfl⟩)

/-- The bytes fetched, where they all exist. -/
theorem fetchBytes_of_present (s : State) (a : Word) (n : Nat)
    (h : ∀ k < n, s.present (a + BitVec.ofNat 64 k) = true) :
    fetchBytes s a n = some ((List.range n).map fun k => s.byteAt (a + BitVec.ofNat 64 k)) := by
  induction n generalizing a with
  | zero => rfl
  | succ n ih =>
    have shift : ∀ k, a + 1#64 + BitVec.ofNat 64 k = a + BitVec.ofNat 64 (k + 1) := fun k => by
      rw [BitVec.add_assoc]; congr 1; apply BitVec.eq_of_toNat_eq; simp [BitVec.toNat_add]; omega
    have h0 : s.present a = true := by simpa using h 0 (by omega)
    have hs := ih (a + 1#64) fun k hk => by rw [shift]; exact h _ (by omega)
    simp [fetchBytes, h0, hs, List.range_succ_eq_map, shift]

end Sys2Proof.Machine
end

