-- ==== Sys2Proof/Tests/Slice0.lean ====
section
/-! SUPPORT. Tests. Expected results come from spec/: the vectors of spec/95_test_vectors.md (named in the comments by their
ids), the Examples of the rules, and the encoding tables of spec/30_encoding.md. The last part shows, for every statement
of Sys2Proof/Certificates/Slice0/Obligations.lean that has hypotheses, values that meet them. -/

namespace Sys2Proof.Machine.Tests

-- One theorem after the other: checked all at once, their threads' stacks exceed the memory limit of check.sh.
set_option Elab.async false

open Sys2Proof

/-! ### Well-formedness: each check refuses an ill-formed term -/

theorem test_undescribed_instruction_is_ill_formed :
    Instr.wellFormed .cinv = false ∧ Instr.wellFormed .sws = false ∧ Instr.wellFormed .cinvx = false := by decide

theorem test_two_immediate_prefixes_are_ill_formed :
    groupWellFormed [.imm8 1#8, .imm8 2#8, .addI 3#8 0#8 0#8] = false := by decide

theorem test_two_trapv_are_ill_formed : groupWellFormed [.trapv, .trapv, .addI 3#8 0#8 0#8] = false := by decide

theorem test_immediate_prefix_before_tst_is_ill_formed : groupWellFormed [.imm8 0x12#8, .tst 0#3 1#8] = false := by decide

theorem test_trapv_before_sub_is_ill_formed : groupWellFormed [.trapv, .subI 3#8 1#8 1#8] = false := by decide

theorem test_prefix_too_wide_is_ill_formed :
    groupWellFormed [.imm64 0#64, .addI 3#8 0#8 0#8] = false ∧ groupWellFormed [.imm56 0#56, .pushc 0#16] = false := by
  decide

theorem test_prefix_without_target_is_ill_formed : groupWellFormed [.imm8 1#8] = false ∧ groupWellFormed [] = false := by
  decide

/-- The two orders of F17 and F18, and the widest prefix of each kind of field, are well-formed. -/
theorem test_well_formed_groups :
    groupWellFormed [.trapv, .imm56 1#56, .addI 3#8 1#8 0xFF#8] = true ∧
    groupWellFormed [.imm56 1#56, .trapv, .addI 3#8 1#8 0xFF#8] = true ∧
    groupWellFormed [.imm48 0#48, .pushc 0#16] = true ∧ groupWellFormed [.imm64 0#64, .lwx 4#8 0#8 0#8] = true := by
  decide

theorem test_launch_with_r0_as_sp_is_ill_formed :
    Launch.wellFormed { Config.resetLaunch with spReg := 0#8 } = false := by decide +kernel

theorem test_region_beyond_the_address_space_is_ill_formed :
    Region.wellFormed ⟨1, 2 ^ 64⟩ = false ∧ Region.wellFormed ⟨0, 2 ^ 64⟩ = true := by decide +kernel

/-! ### Decoding: a word of every constructor, written out from the spec -/

/-- The one instruction that the bytes are, to the last. -/
def reads (bytes : List Byte) : Option Instr :=
  match decode bytes with
  | .ok (i, []) => some i
  | _ => none

/-- BRK, SXB, SXC, SXH (Y1, A1, A3, A5; R133, R141). -/
theorem test_decode_r :
    reads [0x00] = some .brk ∧ reads [0x01, 0x01, 0x02, 0x08] = some (.sxb 2 1) ∧
    reads [0x01, 0x01, 0x02, 0x09] = some (.sxc 2 1) ∧ reads [0x01, 0x01, 0x02, 0x0A] = some (.sxh 2 1) := by
  decide +kernel

/-- The `rr` group (A7, A11, H1 to H14; R134, R135, R140). -/
theorem test_decode_rr :
    reads [0x02, 0x01, 0x02, 0x03, 0x04] = some (.addR 3 1 2) ∧ reads [0x02, 0x01, 0x02, 0x03, 0x20] = some (.andR 3 1 2) ∧
    reads [0x02, 0x01, 0x02, 0x03, 0x40] = some (.shlR 3 1 2) ∧ reads [0x02, 0x01, 0x02, 0x03, 0x41] = some (.rolR 3 1 2) ∧
    reads [0x02, 0x01, 0x02, 0x03, 0x42] = some (.shrR 3 1 2) ∧ reads [0x02, 0x01, 0x02, 0x03, 0x43] = some (.rorR 3 1 2) ∧
    reads [0x02, 0x01, 0x02, 0x03, 0x44] = some (.asrR 3 1 2) ∧ reads [0x02, 0x01, 0x3F, 0x03, 0x50] = some (.shlI 3 1 63) ∧
    reads [0x02, 0x01, 0x04, 0x03, 0x51] = some (.rolI 3 1 4) ∧ reads [0x02, 0x01, 0x04, 0x03, 0x52] = some (.shrI 3 1 4) ∧
    reads [0x02, 0x01, 0x08, 0x03, 0x53] = some (.rorI 3 1 8) ∧ reads [0x02, 0x01, 0x3F, 0x03, 0x54] = some (.asrI 3 1 63) := by
  decide +kernel

/-- TST, CMPI, CMP (T1, T3, T9, T8; R122, R129). -/
theorem test_decode_compare :
    reads [0x09, 0x05] = some (.tst 1 5) ∧ reads [0x0F, 0x05] = some (.tst 7 5) ∧
    reads [0x12, 0x03, 0xFF] = some (.cmpi 2 3 0xFF) ∧ reads [0x1B, 0x01, 0x02] = some (.cmp 3 1 2) := by
  decide +kernel

/-- The RI group (A12 to A37; R130, R142). -/
theorem test_decode_ri :
    reads [0x20, 0x01, 0x03, 0x05] = some (.addI 3 1 5) ∧ reads [0x21, 0x01, 0x03, 0x01] = some (.subI 3 1 1) ∧
    reads [0x22, 0x01, 0x03, 0xFE] = some (.mulI 3 1 0xFE) ∧ reads [0x23, 0x01, 0x03, 0x02] = some (.divI 3 1 2) ∧
    reads [0x24, 0x01, 0x03, 0x02] = some (.remI 3 1 2) ∧ reads [0x28, 0x01, 0x03, 0x0F] = some (.andI 3 1 0x0F) ∧
    reads [0x29, 0x01, 0x03, 0x80] = some (.orI 3 1 0x80) ∧ reads [0x2A, 0x01, 0x03, 0xFF] = some (.eorI 3 1 0xFF) ∧
    reads [0x32, 0x01, 0x03, 0x03] = some (.muluI 3 1 3) ∧ reads [0x33, 0x01, 0x03, 0x02] = some (.divuI 3 1 2) ∧
    reads [0x34, 0x01, 0x03, 0x0A] = some (.remuI 3 1 10) := by
  decide +kernel

/-- The set instructions (S1 to S19). -/
theorem test_decode_set :
    reads [0x30, 0x01, 0x03, 0x05] = some (.seqI 3 1 5) ∧ reads [0x31, 0x01, 0x03, 0x05] = some (.sneI 3 1 5) ∧
    reads [0x38, 0x01, 0x03, 0x05] = some (.sgtI 3 1 5) ∧ reads [0x39, 0x01, 0x03, 0x05] = some (.sleI 3 1 5) ∧
    reads [0x3A, 0x01, 0x03, 0x05] = some (.sgeI 3 1 5) ∧ reads [0x3B, 0x01, 0x03, 0x05] = some (.sltI 3 1 5) ∧
    reads [0x3C, 0x01, 0x03, 0x05] = some (.shiI 3 1 5) ∧ reads [0x3D, 0x01, 0x03, 0x05] = some (.slsI 3 1 5) ∧
    reads [0x3E, 0x01, 0x03, 0x05] = some (.shsI 3 1 5) ∧ reads [0x3F, 0x01, 0x03, 0x05] = some (.sloI 3 1 5) := by
  decide +kernel

/-- The short branches: byte 1 is Disp5 : Fa (B1 to B6; R124, R142). -/
theorem test_decode_bcc :
    reads [0x40, 0x20] = some (.beq 0 4) ∧ reads [0x41, 0x80] = some (.bne 0 0x10) ∧ reads [0x42, 0x21] = some (.bvs 1 4) ∧
    reads [0x43, 0x21] = some (.bvc 1 4) ∧ reads [0x44, 0x21] = some (.bmi 1 4) ∧ reads [0x45, 0x21] = some (.bpl 1 4) ∧
    reads [0x46, 0x78] = some (.bra 0 15) ∧ reads [0x47, 0x33] = some (.bnv 3 6) ∧ reads [0x48, 0x27] = some (.bgt 7 4) ∧
    reads [0x49, 0x27] = some (.ble 7 4) ∧ reads [0x4A, 0x27] = some (.bge 7 4) ∧ reads [0x4B, 0x27] = some (.blt 7 4) ∧
    reads [0x4C, 0xFE] = some (.bhi 6 31) ∧ reads [0x4D, 0xFE] = some (.bls 6 31) ∧ reads [0x4E, 0xFE] = some (.bhs 6 31) ∧
    reads [0x4F, 0xFE] = some (.blo 6 31) := by
  decide +kernel

/-- The long branches: bytes 1 and 2 are Disp13 : Fa, the low byte first (B7 to B10, P4; R125, R142). -/
theorem test_decode_lbcc :
    reads [0x50, 0xEA, 0x7F] = some (.lbeq 2 4093) ∧ reads [0x51, 0xEA, 0x7F] = some (.lbne 2 4093) ∧
    reads [0x52, 0xEA, 0x7F] = some (.lbvs 2 4093) ∧ reads [0x53, 0xEA, 0x7F] = some (.lbvc 2 4093) ∧
    reads [0x54, 0xEA, 0x7F] = some (.lbmi 2 4093) ∧ reads [0x55, 0xEA, 0x7F] = some (.lbpl 2 4093) ∧
    reads [0x56, 0x00, 0x80] = some (.lbra 0 0x1000) ∧ reads [0x57, 0xF8, 0x7F] = some (.lbnv 0 4095) ∧
    reads [0x58, 0x31, 0x00] = some (.lbgt 1 6) ∧ reads [0x59, 0x31, 0x00] = some (.lble 1 6) ∧
    reads [0x5A, 0x31, 0x00] = some (.lbge 1 6) ∧ reads [0x5B, 0x31, 0x00] = some (.lblt 1 6) ∧
    reads [0x5C, 0x31, 0x00] = some (.lbhi 1 6) ∧ reads [0x5D, 0x31, 0x00] = some (.lbls 1 6) ∧
    reads [0x5E, 0x31, 0x00] = some (.lbhs 1 6) ∧ reads [0x5F, 0x31, 0x00] = some (.lblo 1 6) := by
  decide +kernel

/-- Jumps, TRAPV, RET and the branches on a register (B11 to B29, Y14; R126 to R128). -/
theorem test_decode_jump :
    reads [0x60, 0x21] = some (.jalr 1 2) ∧ reads [0x61, 0x21, 0x56, 0x34, 0x12] = some (.jalr24 1 2 0x123456) ∧
    reads [0x62] = some .trapv ∧ reads [0x63] = some .ret ∧ reads [0x68, 0x04, 0x0D] = some (.brz 4 0x0D) ∧
    reads [0x69, 0x04, 0xFD] = some (.brnz 4 0xFD) ∧ reads [0x6A, 0x04, 0x0D] = some (.brmi 4 0x0D) ∧
    reads [0x6B, 0x04, 0x80] = some (.brpl 4 0x80) ∧ reads [0x6C, 0x02, 0xF9] = some (.dbnz 2 0xF9) := by
  decide +kernel

/-- The loads (L1 to L22; R130, R132, R142). -/
theorem test_decode_load :
    reads [0x80, 0x02, 0x03, 0xFF] = some (.lb 3 2 0xFF) ∧ reads [0x81, 0x02, 0x03, 0x00] = some (.lbu 3 2 0) ∧
    reads [0x82, 0x02, 0x03, 0x02] = some (.lc 3 2 2) ∧ reads [0x83, 0x02, 0x03, 0x02] = some (.lcu 3 2 2) ∧
    reads [0x84, 0x02, 0x03, 0x04] = some (.lh 3 2 4) ∧ reads [0x85, 0x02, 0x03, 0x04] = some (.lhu 3 2 4) ∧
    reads [0x86, 0x02, 0x03, 0x08] = some (.lw 3 2 8) ∧ reads [0x87, 0x02, 0x03, 0xFD] = some (.lea 3 2 0xFD) ∧
    reads [0x88, 0x02, 0x04, 0x03] = some (.lbx 3 2 4) ∧ reads [0x89, 0x02, 0x04, 0x03] = some (.lbux 3 2 4) ∧
    reads [0x8A, 0x02, 0x04, 0x03] = some (.lcx 3 2 4) ∧ reads [0x8B, 0x02, 0x04, 0x03] = some (.lcux 3 2 4) ∧
    reads [0x8C, 0x02, 0x04, 0x03] = some (.lhx 3 2 4) ∧ reads [0x8D, 0x02, 0x04, 0x03] = some (.lhux 3 2 4) ∧
    reads [0x8E, 0x02, 0x04, 0x03] = some (.lwx 3 2 4) ∧ reads [0x8F, 0x02, 0x04, 0x03] = some (.leax 3 2 4) := by
  decide +kernel

/-- Stores, stack, CAS and the three undescribed opcodes (W1 to W11, K1 to K10, C1, F10; R132, R136 to R138). -/
theorem test_decode_store :
    reads [0xA0, 0x02, 0x01, 0x00] = some (.sb 1 2 0) ∧ reads [0xA1, 0x02, 0x01, 0x02] = some (.sc 1 2 2) ∧
    reads [0xA2, 0x02, 0x01, 0x04] = some (.sh 1 2 4) ∧ reads [0xA3, 0x02, 0x01, 0x08] = some (.sw 1 2 8) ∧
    reads [0xA4] = some .cinv ∧ reads [0xA5] = some .sws ∧ reads [0xA6, 0x01] = some (.push 1) ∧
    reads [0xA7, 0x02] = some (.pop 2) ∧ reads [0xA8, 0x02, 0x03, 0x01] = some (.sbx 1 2 3) ∧
    reads [0xA9, 0x02, 0x03, 0x01] = some (.scx 1 2 3) ∧ reads [0xAA, 0x02, 0x03, 0x01] = some (.shx 1 2 3) ∧
    reads [0xAB, 0x02, 0x03, 0x01] = some (.swx 1 2 3) ∧ reads [0xAC] = some .cinvx ∧
    reads [0xAD, 0x88, 0x77] = some (.pushc 0x7788) ∧ reads [0x97, 0x01, 0x02, 0x03, 0x04] = some (.cas 4 2 3 1) := by
  decide +kernel

/-- NOP, CLI and the immediate prefixes (Y2 to Y11, L23; R139). -/
theorem test_decode_system :
    reads [0xEA] = some .nop ∧ reads [0xFA] = some .cli ∧ reads [0xF1, 0x12] = some (.imm8 0x12) ∧
    reads [0xF2, 0x34, 0x12] = some (.imm16 0x1234) ∧ reads [0xF3, 0x56, 0x34, 0x12] = some (.imm24 0x123456) ∧
    reads [0xF4, 0x00, 0x00, 0x00, 0x80] = some (.imm32 0x80000000) ∧
    reads [0xF5, 0x05, 0x04, 0x03, 0x02, 0x01] = some (.imm40 0x0102030405) ∧
    reads [0xF6, 0x06, 0x05, 0x04, 0x03, 0x02, 0x01] = some (.imm48 0x010203040506) ∧
    reads [0xF7, 0x77, 0x66, 0x55, 0x44, 0x33, 0x22, 0x11] = some (.imm56 0x11223344556677) ∧
    reads [0xF8, 0x08, 0x20, 0x00, 0x00, 0x00, 0x00, 0x00, 0x80] = some (.imm64 0x8000000000002008) := by
  decide +kernel

/-- Rejections by name (F3 to F6), and a truncated instruction. -/
theorem test_decode_rejects :
    decode [0x03] = .error (.unassignedOpcode 0x03) ∧
    decode [0x02, 0x01, 0x02, 0x03, 0x05] = .error (.unassignedFunction 0x02 0x05) ∧
    decode [0x01, 0x01, 0x02, 0x0B] = .error (.unassignedFunction 0x01 0x0B) ∧
    decode [0x02, 0x01, 0x44, 0x03, 0x50] = .error (.reservedBitsSet 0x44) ∧ decode [0x20, 0x01, 0x03] = .error .truncated := by
  decide +kernel

/-- The numbering of spec/opcode_table.json: the first byte is bits 7..0 (R154). -/
theorem test_decode_table_word :
    decodeTableWord 40 0x2003020102 = some (.andR 3 1 2) ∧ decodeTableWord 8 0x40 = some (.beq 0 0) ∧
    decodeTableWord 8 0x03 = none := by decide +kernel

/-! ### One step from a small state -/

/-- The start state of spec/95_test_vectors.md with the general registers listed. -/
def started (regs : List (RegNum × Word)) : State := regs.foldl (fun s p => s.setReg p.1 p.2) State.reset

/-- A state with bytes of memory set. -/
def having (a : Word) (bytes : List Byte) (s : State) : State := { s with mem := placeBytes s.mem a bytes }

/-- One step that runs the bytes, placed at the pc. -/
def run (bytes : List Byte) (s : State) : Out := step (s.placeAtPc bytes)

/-- What a next state holds, by `f`; `none` if there is no next state. -/
def after {α : Type} (f : State → α) (o : Out) : Option α :=
  match o with
  | .next t => some (f t)
  | _ => none

/-- The exception a run ended in, its information, and the pc and CA13 of the final state. -/
def trap (o : Out) : Option (Exn × Word × Word × Word) :=
  match o with
  | .fault (.trapped e info t) => some (e, info, t.pc, t.caReg 0 13)
  | _ => none

/-- The refusal. -/
def refusal (o : Out) : Option Refusal :=
  match o with
  | .refused r => some r
  | _ => none

/-- The `n` bytes of memory from `a` up. -/
def bytesFrom (a : Word) (n : Nat) (s : State) : List Byte := (List.range n).map fun k => s.byteAt (nth a k)

/-- Register R3 after the bytes run with R1 and R2 set. -/
def r3 (bytes : List Byte) (r1 r2 : Word) : Option Word := after (·.reg 3) (run bytes (started [(1, r1), (2, r2)]))

/-- T1, T3, T5 to T7, T9, T11. -/
theorem test_compare :
    after (·.flag 1) (run [0x09, 0x05] (started [(5, 0xFFFFFFFFFFFFFFFF)])) = some 0b1000 ∧
    after (·.flag 7) (run [0x0F, 0x05] (started [(5, 0x8000000000000000)])) = some 0b1000 ∧
    after (·.flag 0) (run [0x18, 0x01, 0x02] (started [(1, 0x8000000000000000), (2, 1)])) = some 0b0100 ∧
    after (·.flag 0) (run [0x18, 0x01, 0x02] (started [(1, 0), (2, 1)])) = some 0b1010 ∧
    after (·.flag 0) (run [0x18, 0x01, 0x02] (started [(1, 0x7FFFFFFFFFFFFFFF), (2, 0xFFFFFFFFFFFFFFFF)])) = some 0b1110 ∧
    after (·.flag 2) (run [0x12, 0x03, 0xFF] (started [(3, 0xFFFFFFFFFFFFFFFF)])) = some 0b0001 ∧
    after (·.flag 2) (run [0x12, 0x03, 0x80] (started [(3, 0)])) = some 0b0010 := by decide +kernel

/-- A1, A2, A3, A5, with Rt = R3. -/
theorem test_sign_extend :
    r3 [0x01, 0x01, 0x03, 0x08] 0x12F0 0 = some 0xFFFFFFFFFFFFFFF0 ∧ r3 [0x01, 0x01, 0x03, 0x08] 0x17F 0 = some 0x7F ∧
    r3 [0x01, 0x01, 0x03, 0x09] 0x1ABCD 0 = some 0xFFFFFFFFFFFFABCD ∧
    r3 [0x01, 0x01, 0x03, 0x0A] 0x1DEADBEEF 0 = some 0xFFFFFFFFDEADBEEF := by decide +kernel

/-- A7 to A17: a dropped write to R0, a target that is both sources, wrapping. -/
theorem test_arithmetic :
    r3 [0x02, 0x01, 0x02, 0x03, 0x04] 5 0xFFFFFFFFFFFFFFFF = some 4 ∧
    after (·.reg 0) (run [0x02, 0x01, 0x02, 0x00, 0x04] (started [(1, 5), (2, 6)])) = some 0 ∧
    after (·.reg 1) (run [0x02, 0x01, 0x01, 0x01, 0x04] (started [(1, 0x8000000000000001)])) = some 2 ∧
    r3 [0x02, 0x01, 0x02, 0x03, 0x20] 0xF0F0 0x0FF0 = some 0xF0 ∧ r3 [0x20, 0x01, 0x03, 0xFF] 0 0 = some 0xFFFFFFFFFFFFFFFF ∧
    r3 [0x21, 0x01, 0x03, 0x01] 0 0 = some 0xFFFFFFFFFFFFFFFF ∧ r3 [0x22, 0x01, 0x03, 0xFE] 3 0 = some 0xFFFFFFFFFFFFFFFA ∧
    r3 [0x22, 0x01, 0x03, 0x02] 0x8000000000000001 0 = some 2 := by decide +kernel

/-- A20 to A28. -/
theorem test_signed_division :
    r3 [0x23, 0x01, 0x03, 0x02] 0xFFFFFFFFFFFFFFF9 0 = some 0xFFFFFFFFFFFFFFFD ∧
    r3 [0x24, 0x01, 0x03, 0x02] 0xFFFFFFFFFFFFFFF9 0 = some 0xFFFFFFFFFFFFFFFF ∧
    r3 [0x23, 0x01, 0x03, 0xFE] 7 0 = some 0xFFFFFFFFFFFFFFFD ∧ r3 [0x24, 0x01, 0x03, 0xFE] 7 0 = some 1 ∧
    r3 [0x23, 0x01, 0x03, 0xFE] 0xFFFFFFFFFFFFFFF9 0 = some 3 ∧
    refusal (run [0x23, 0x01, 0x03, 0x00] (started [(1, 5)])) = some .divisionCorner ∧
    refusal (run [0x23, 0x01, 0x03, 0xFF] (started [(1, 0x8000000000000000)])) = some .divisionCorner ∧
    refusal (run [0x24, 0x01, 0x03, 0xFF] (started [(1, 0x8000000000000000)])) = some .divisionCorner := by decide +kernel

/-- A34 to A38. -/
theorem test_unsigned_arithmetic :
    r3 [0x32, 0x01, 0x03, 0x03] 5 0 = some 0xF ∧ r3 [0x33, 0x01, 0x03, 0x02] 0xFFFFFFFFFFFFFFFF 0 = some 0x7FFFFFFFFFFFFFFF ∧
    r3 [0x33, 0x01, 0x03, 0xFF] 0xFFFFFFFFFFFFFFFF 0 = some 1 ∧ r3 [0x34, 0x01, 0x03, 0x0A] 123 0 = some 3 ∧
    refusal (run [0x33, 0x01, 0x03, 0x00] (started [(1, 1)])) = some .divisionCorner := by decide +kernel

/-- A29 to A33. -/
theorem test_logic :
    r3 [0x28, 0x01, 0x03, 0x0F] 0x1234 0 = some 4 ∧ r3 [0x28, 0x01, 0x03, 0xF0] 0xFFFFFFFFFFFFFFFF 0 = some 0xFFFFFFFFFFFFFFF0 ∧
    r3 [0x29, 0x01, 0x03, 0x80] 1 0 = some 0xFFFFFFFFFFFFFF81 ∧ r3 [0x2A, 0x01, 0x03, 0xFF] 0 0 = some 0xFFFFFFFFFFFFFFFF := by
  decide +kernel

/-- S1 to S20: with 5 against 5, and with -5 against 5, in the order of the opcodes. -/
theorem test_set :
    ([0x30, 0x31, 0x38, 0x39, 0x3A, 0x3B, 0x3C, 0x3D, 0x3E, 0x3F] : List Byte).map (fun op => r3 [op, 0x01, 0x03, 0x05] 5 0)
      = [some 1, some 0, some 0, some 1, some 1, some 0, some 0, some 1, some 1, some 0] ∧
    ([0x30, 0x31, 0x38, 0x39, 0x3A, 0x3B, 0x3C, 0x3D, 0x3E, 0x3F] : List Byte).map
      (fun op => r3 [op, 0x01, 0x03, 0x05] 0xFFFFFFFFFFFFFFFB 0)
      = [some 0, some 1, some 0, some 1, some 0, some 1, some 1, some 0, some 1, some 0] := by decide +kernel

/-- H1 to H3, H6, H9, H11, H13. -/
theorem test_shift_registers :
    r3 [0x02, 0x01, 0x02, 0x03, 0x40] 1 64 = some 1 ∧ r3 [0x02, 0x01, 0x02, 0x03, 0x40] 1 65 = some 2 ∧
    r3 [0x02, 0x01, 0x02, 0x03, 0x41] 0x8000000000000001 1 = some 3 ∧
    r3 [0x02, 0x01, 0x02, 0x03, 0x42] 0x8000000000000000 63 = some 1 ∧
    r3 [0x02, 0x01, 0x02, 0x03, 0x43] 3 1 = some 0x8000000000000001 ∧
    r3 [0x02, 0x01, 0x02, 0x03, 0x44] 0xFFFFFFFFFFFFFFF9 1 = some 0xFFFFFFFFFFFFFFFC := by decide +kernel

/-- H4, H7, H8, H10, H12, H14, H15, H17. -/
theorem test_shift_immediates :
    r3 [0x02, 0x01, 0x3F, 0x03, 0x50] 3 0 = some 0x8000000000000000 ∧
    r3 [0x02, 0x01, 0x04, 0x03, 0x51] 0xF000000000000001 0 = some 0x1F ∧
    r3 [0x02, 0x01, 0x00, 0x03, 0x51] 0xF000000000000001 0 = some 0xF000000000000001 ∧
    r3 [0x02, 0x01, 0x04, 0x03, 0x52] 0xFFFFFFFFFFFFFFFF 0 = some 0x0FFFFFFFFFFFFFFF ∧
    r3 [0x02, 0x01, 0x08, 0x03, 0x53] 0x12AB 0 = some 0xAB00000000000012 ∧
    r3 [0x02, 0x01, 0x04, 0x03, 0x54] 0x8000000000000000 0 = some 0xF800000000000000 ∧
    r3 [0x02, 0x01, 0x3F, 0x03, 0x54] 0x8000000000000000 0 = some 0xFFFFFFFFFFFFFFFF ∧
    trap (run [0x02, 0x01, 0x44, 0x03, 0x50] (started [(1, 1)])) = some (.illegalInstruction, 0x1000, 0x1000, 0x1000) := by
  decide +kernel

/-- B1 to B10. -/
theorem test_branches :
    after (·.pc) (run [0x40, 0x20] (State.reset.setFlag 0 0b0001)) = some 0x1006 ∧
    after (·.pc) (run [0x40, 0x20] State.reset) = some 0x1002 ∧ after (·.pc) (run [0x41, 0x80] State.reset) = some 0xFF2 ∧
    after (·.pc) (run [0x46, 0x78] State.reset) = some 0x1011 ∧ after (·.pc) (run [0x47, 0x33] State.reset) = some 0x1002 ∧
    after (·.pc) (run [0x51, 0xEA, 0x7F] State.reset) = some 0x2000 ∧
    after (·.pc) (run [0x51, 0xEA, 0x7F] (State.reset.setFlag 2 0b0001)) = some 0x1003 ∧
    after (·.pc) (run [0x56, 0x00, 0x80] State.reset) = some 0x3 ∧
    after (·.pc) (run [0x56, 0xF8, 0x7F] State.reset) = some 0x2002 := by decide +kernel

/-- Three columns of the table of section 2.5a: for each of the sixteen conditions, is the branch taken? -/
theorem test_conditions :
    let taken (f : BitVec 4) : List Bool := [Cond.eq, .ne, .vs, .vc, .mi, .pl, .ra, .nv, .gt, .le, .ge, .lt, .hi, .ls, .hs, .lo].map
      (condHolds · f)
    taken 0b1010 = [false, true, false, true, true, false, true, false, false, true, false, true, false, true, false, true] ∧
    taken 0b0001 = [true, false, false, true, false, true, true, false, false, true, true, false, false, true, true, false] ∧
    taken 0b1110 = [false, true, true, false, true, false, true, false, true, false, true, false, false, true, false, true] := by
  decide +kernel

/-- B11 to B20. -/
theorem test_register_branches :
    after (·.pc) (run [0x68, 0x04, 0x0D] State.reset) = some 0x1010 ∧
    after (·.pc) (run [0x69, 0x04, 0xFD] (started [(4, 1)])) = some 0x1000 ∧
    after (·.pc) (run [0x6A, 0x04, 0x0D] (started [(4, 0x8000000000000000)])) = some 0x1010 ∧
    after (·.pc) (run [0x6B, 0x04, 0x80] State.reset) = some 0xF83 ∧
    after (fun t => (t.reg 2, t.pc)) (run [0x6C, 0x02, 0xF9] (started [(2, 2)])) = some (1, 0xFFC) ∧
    after (fun t => (t.reg 2, t.pc)) (run [0x6C, 0x02, 0xF9] (started [(2, 1)])) = some (0, 0x1003) ∧
    after (fun t => (t.reg 2, t.pc)) (run [0x6C, 0x02, 0xF9] State.reset) = some (0xFFFFFFFFFFFFFFFF, 0xFFC) := by decide +kernel

/-- B22 to B24, B27 to B29. -/
theorem test_jumps :
    after (fun t => (t.caReg 0 1, t.pc)) (run [0x60, 0x11] (State.reset.setCa 1 0x4000)) = some (0x1002, 0x4000) ∧
    after (·.pc) (run [0x60, 0xF0] State.reset) = some 0x1002 ∧
    after (·.pc) (run [0x60, 0x2F] (State.reset.setCa 2 0x4000)) = some 0x4000 ∧
    after (fun t => (t.caReg 0 1, t.pc)) (run [0x61, 0xF1, 0xFB, 0xFF, 0xFF] { State.reset with pc := 0x2000 })
      = some (0x2005, 0x2000) ∧
    after (·.pc) (run [0x61, 0x20, 0x00, 0x00, 0x80] (State.reset.setCa 2 0x1000000)) = some 0x800000 ∧
    after (·.pc) (run [0x63] (State.reset.setCa 1 0x1002)) = some 0x1002 := by decide +kernel

/-- The bytes at 2000h of section 2.6. -/
def loadBytes : List Byte :=
  [0xF0, 0x7F, 0xCD, 0xAB, 0xEF, 0xBE, 0xAD, 0xDE, 0x88, 0x77, 0x66, 0x55, 0x44, 0x33, 0x22, 0x11]

/-- R3 after a load with R2 = 2000h and R4 set. -/
def loaded (bytes : List Byte) (r4 : Word) : Option Word :=
  after (·.reg 3) (run bytes (having 0x2000 loadBytes (started [(2, 0x2000), (4, r4)])))

/-- L2 to L9. -/
theorem test_loads :
    loaded [0x80, 0x02, 0x03, 0x01] 0 = some 0x7F ∧ loaded [0x81, 0x02, 0x03, 0x00] 0 = some 0xF0 ∧
    loaded [0x82, 0x02, 0x03, 0x02] 0 = some 0xFFFFFFFFFFFFABCD ∧ loaded [0x83, 0x02, 0x03, 0x02] 0 = some 0xABCD ∧
    loaded [0x84, 0x02, 0x03, 0x04] 0 = some 0xFFFFFFFFDEADBEEF ∧ loaded [0x85, 0x02, 0x03, 0x04] 0 = some 0xDEADBEEF ∧
    loaded [0x86, 0x02, 0x03, 0x08] 0 = some 0x1122334455667788 ∧ loaded [0x87, 0x02, 0x03, 0xFD] 0 = some 0x1FFD := by
  decide +kernel

/-- L15 to L22. -/
theorem test_indexed_loads :
    loaded [0x88, 0x02, 0x04, 0x03] 3 = some 0xFFFFFFFFFFFFFFAB ∧ loaded [0x89, 0x02, 0x04, 0x03] 3 = some 0xAB ∧
    loaded [0x8A, 0x02, 0x04, 0x03] 2 = some 0xFFFFFFFFFFFFABCD ∧ loaded [0x8B, 0x02, 0x04, 0x03] 2 = some 0xABCD ∧
    loaded [0x8C, 0x02, 0x04, 0x03] 4 = some 0xFFFFFFFFDEADBEEF ∧ loaded [0x8D, 0x02, 0x04, 0x03] 4 = some 0xDEADBEEF ∧
    loaded [0x8E, 0x02, 0x04, 0x03] 8 = some 0x1122334455667788 ∧
    loaded [0x8F, 0x02, 0x04, 0x03] 0xFFFFFFFFFFFFFFFF = some 0x1FFF := by decide +kernel

/-- The start state whose memory exists at 1000h..100Fh and at `a` up to `a + n` only. -/
def within (a n : Nat) (s : State) : State :=
  { s with launch := { s.launch with present := [⟨0x1000, 16⟩, ⟨a, n⟩] } }

/-- L10, L12, L13. -/
theorem test_load_exceptions :
    trap (run [0x82, 0x02, 0x03, 0x01] (started [(2, 0x2000)])) = some (.misaligned, 0x2001, 0x1000, 0x1000) ∧
    trap (run [0x86, 0x02, 0x03, 0x04] (started [(2, 0x2000)])) = some (.misaligned, 0x2004, 0x1000, 0x1000) ∧
    trap (run [0x86, 0x02, 0x03, 0x10] (within 0x2000 16 (started [(2, 0x2000)])))
      = some (.accessFault, 0x2010, 0x1000, 0x1000) := by decide +kernel

/-- `MISALIGNED` = split makes the access byte by byte (R87); CAS raises all the same (R88). -/
theorem test_split_access :
    let s := { having 0x2000 loadBytes (started [(1, 0x2001), (2, 0x2001)]) with
      launch := { Config.resetLaunch with misalignedMode := .split } }
    after (·.reg 3) (run [0x86, 0x02, 0x03, 0x00] s) = some 0x88DEADBEEFABCD7F ∧
    trap (run [0x97, 0x01, 0x02, 0x03, 0x04] s) = some (.misaligned, 0x2001, 0x1000, 0x1000) := by decide +kernel

/-- The `n` bytes at `a` after a store of R1 = 123456789ABCDEF0h, with R2 = 2000h and R3 = 10h. -/
def stored (bytes : List Byte) (a : Word) (n : Nat) : Option (List Byte) :=
  after (bytesFrom a n) (run bytes (started [(1, 0x123456789ABCDEF0), (2, 0x2000), (3, 0x10)]))

/-- W1 to W4, W8 to W11. -/
theorem test_stores :
    stored [0xA0, 0x02, 0x01, 0x00] 0x2000 2 = some [0xF0, 0x00] ∧
    stored [0xA1, 0x02, 0x01, 0x02] 0x2002 4 = some [0xF0, 0xDE, 0x00, 0x00] ∧
    stored [0xA2, 0x02, 0x01, 0x04] 0x2004 6 = some [0xF0, 0xDE, 0xBC, 0x9A, 0x00, 0x00] ∧
    stored [0xA3, 0x02, 0x01, 0x08] 0x2008 8 = some [0xF0, 0xDE, 0xBC, 0x9A, 0x78, 0x56, 0x34, 0x12] ∧
    stored [0xA8, 0x02, 0x03, 0x01] 0x200F 3 = some [0x00, 0xF0, 0x00] ∧
    stored [0xA9, 0x02, 0x03, 0x01] 0x2010 3 = some [0xF0, 0xDE, 0x00] ∧
    stored [0xAA, 0x02, 0x03, 0x01] 0x2010 5 = some [0xF0, 0xDE, 0xBC, 0x9A, 0x00] ∧
    stored [0xAB, 0x02, 0x03, 0x01] 0x2010 8 = some [0xF0, 0xDE, 0xBC, 0x9A, 0x78, 0x56, 0x34, 0x12] := by decide +kernel

/-- W6, W7, W13, and a store to the program text (R98). -/
theorem test_store_stops :
    trap (run [0xA3, 0x02, 0x01, 0x20] (within 0x2000 32 (started [(2, 0x2000)]))) = some (.accessFault, 0x2020, 0x1000, 0x1000) ∧
    trap (run [0xA3, 0x02, 0x01, 0x1C] (within 0x2000 32 (started [(2, 0x2000)]))) = some (.misaligned, 0x201C, 0x1000, 0x1000) ∧
    after (bytesFrom 0x2000 1) (run [0xA0, 0x02, 0x00, 0x00] (having 0x2000 [0xFF] (started [(2, 0x2000)]))) = some [0x00] ∧
    refusal (run [0xA0, 0x02, 0x01, 0x00] { started [(2, 0x1000)] with
      launch := { Config.resetLaunch with text := [⟨0x1000, 4⟩] } }) = some .storeToText := by decide +kernel

/-- K1, K3, K5, K6, K10, K11, K13. -/
theorem test_stack :
    after (fun t => (t.reg 63, bytesFrom 0x7FF8 8 t)) (run [0xA6, 0x01] (started [(63, 0x8000), (1, 0x1122334455667788)]))
      = some (0x7FF8, [0x88, 0x77, 0x66, 0x55, 0x44, 0x33, 0x22, 0x11]) ∧
    trap (run [0xA6, 0x01] (started [(63, 0x8004)])) = some (.misaligned, 0x7FFC, 0x1000, 0x1000) ∧
    refusal (run [0xA6, 0x3F] State.reset) = some .pushOfSp ∧
    after (fun t => (t.reg 63, bytesFrom 0x7FF8 8 t)) (run [0xAD, 0xFE, 0xFF] (started [(63, 0x8000)]))
      = some (0x7FF8, [0xFE, 0xFF, 0xFF, 0xFF, 0xFF, 0xFF, 0xFF, 0xFF]) ∧
    after (fun t => (t.reg 2, t.reg 63)) (run [0xA7, 0x02]
      (having 0x7FF8 [0x88, 0x77, 0x66, 0x55, 0x44, 0x33, 0x22, 0x11] (started [(63, 0x7FF8)])))
      = some (0x1122334455667788, 0x8000) ∧
    after (·.reg 63) (run [0xA7, 0x00] (within 0x7FE0 32 (started [(63, 0x9000)]))) = some 0x9008 ∧
    refusal (run [0xA7, 0x3F] State.reset) = some .popOfSp := by decide +kernel

/-- C1, C3, C5. -/
theorem test_compare_and_swap :
    after (fun t => (t.reg 4, bytesFrom 0x3000 8 t)) (run [0x97, 0x01, 0x02, 0x03, 0x04]
      (having 0x3000 [5] (started [(1, 0x3000), (2, 5), (3, 9)]))) = some (5, [9, 0, 0, 0, 0, 0, 0, 0]) ∧
    after (fun t => (t.reg 2, bytesFrom 0x3000 8 t)) (run [0x97, 0x01, 0x02, 0x03, 0x02]
      (having 0x3000 [5] (started [(1, 0x3000), (2, 6), (3, 9)]))) = some (5, [5, 0, 0, 0, 0, 0, 0, 0]) ∧
    trap (run [0x97, 0x01, 0x02, 0x03, 0x04] (started [(1, 0x3004)])) = some (.misaligned, 0x3004, 0x1000, 0x1000) := by
  decide +kernel

/-- Y1 to Y4, F10, F11, F19. -/
theorem test_system :
    trap (run [0x00] State.reset) = some (.brk, 0x1000, 0x1000, 0x1000) ∧
    after (·.pc) (run [0xEA] State.reset) = some 0x1001 ∧
    after (·.sr) (run [0xFA] { State.reset with sr := 0x00008003 }) = some 0x00000003 ∧
    after (·.sr) (run [0xFA] { State.reset with sr := 0x80000003 }) = some 0x80000003 ∧
    refusal (run [0xA4] State.reset) = some .cinvNotDescribed ∧ refusal (run [0xA5] State.reset) = some .swsNotDescribed ∧
    refusal (run [0xAC] State.reset) = some .cinvxNotDescribed ∧
    trap (step (within 0x1000 1 { State.reset with pc := 0x1010 })) = some (.accessFault, 0x1010, 0x1010, 0x1010) ∧
    trap (step State.reset) = some (.brk, 0x1000, 0x1000, 0x1000) := by decide +kernel

/-- The second steps of Y5, Y6, Y11, Y12, L23, K8: the instruction under a pending immediate prefix. -/
theorem test_prefixed :
    let s (p : ImmPrefix) : State := { started [(63, 0x8000)] with ipfx := some p }
    after (·.reg 3) (run [0x20, 0x00, 0x03, 0x34] (s (.imm8 0x12))) = some 0x1234 ∧
    after (·.reg 3) (run [0x20, 0x00, 0x03, 0x00] (s (.imm16 0xFFFF))) = some 0xFFFFFFFFFFFFFF00 ∧
    after (·.reg 3) (run [0x20, 0x00, 0x03, 0x88] (s (.imm56 0x11223344556677))) = some 0x1122334455667788 ∧
    after (·.reg 3) (run [0x20, 0x00, 0x03, 0x80] (s (.imm8 0x00))) = some 0x80 ∧
    after (·.reg 4) (run [0x8E, 0x00, 0x00, 0x04] (having 0x2000 loadBytes (s (.imm64 0x2008)))) = some 0x1122334455667788 ∧
    after (bytesFrom 0x7FF8 8) (run [0xAD, 0x88, 0x77] (s (.imm48 0x112233445566)))
      = some [0x88, 0x77, 0x66, 0x55, 0x44, 0x33, 0x22, 0x11] := by decide +kernel

/-- The second steps of Y14 to Y18: ADD under a pending TRAPV. -/
theorem test_trapv :
    let s (r1 r2 : Word) : State := { started [(1, r1), (2, r2)] with tpfx := true, pc := 0x1001 }
    trap (run [0x02, 0x01, 0x02, 0x03, 0x04] (s 0x7FFFFFFFFFFFFFFF 1)) = some (.overflow, 0x1001, 0x1001, 0x1001) ∧
    trap (run [0x02, 0x01, 0x02, 0x03, 0x04] (s 0x8000000000000000 0xFFFFFFFFFFFFFFFF)) = some (.overflow, 0x1001, 0x1001, 0x1001) ∧
    after (·.reg 3) (run [0x02, 0x01, 0x02, 0x03, 0x04] (s 0xFFFFFFFFFFFFFFFF 1)) = some 0 ∧
    trap (run [0x20, 0x01, 0x03, 0x7F] (s 0x7FFFFFFFFFFFFF81 0)) = some (.overflow, 0x1001, 0x1001, 0x1001) ∧
    after (·.reg 3) (run [0x20, 0x01, 0x03, 0x7F] (s 0x7FFFFFFFFFFFFF80 0)) = some 0x7FFFFFFFFFFFFFFF := by decide +kernel

/-- The second steps of Y19 to Y24. -/
theorem test_prefix_refusals :
    let t : State := { State.reset with tpfx := true }
    let p : State := { State.reset with ipfx := some (.imm8 1) }
    refusal (run [0xEA] t) = some .trapvNotAccepted ∧ refusal (run [0x62] t) = some .secondTrapv ∧
    refusal (run [0xF1, 0x02] p) = some .secondImmPrefix ∧ refusal (run [0x10, 0x01, 0x02] p) = some .immPrefixNotAccepted ∧
    refusal (run [0x02, 0x01, 0x02, 0x03, 0x04] p) = some .immPrefixNotAccepted ∧
    refusal (run [0x20, 0x00, 0x03, 0x00] { State.reset with ipfx := some (.imm64 0) }) = some .prefixTooWide := by
  decide +kernel

/-- A table word is run by the very next step after reset. -/
theorem test_with_fetch_word :
    after (·.pc) (step (State.reset.withFetchWord 8 0xEA)) = some 0x1001 ∧
    after (·.reg 3) (step ((started [(1, 0xF0F0), (2, 0x0FF0)]).withFetchWord 40 0x2003020102)) = some 0xF0 := by decide +kernel

/-! ### Values that meet the hypotheses of the statements

`test_meets_<Name>` is for the statement `Obligations.<Name>`: one conjunct for each of its clauses that has a hypothesis. The
statements that have no theorem here have no hypothesis. -/

theorem goes_on {o : Out} (h : (after id o).isSome = true) : ∃ t, o = .next t := by
  unfold after at h
  split at h
  · exact ⟨_, rfl⟩
  · cases h

theorem ends_in {o : Out} {e : Exn} {info : Word} (h : (trap o).map (fun x => (x.1, x.2.1)) = some (e, info)) :
    ∃ u, o = .fault (.trapped e info u) := by
  unfold trap at h
  split at h
  · simp only [Option.map_some, Option.some.injEq, Prod.mk.injEq] at h
    obtain ⟨rfl, rfl⟩ := h
    exact ⟨_, rfl⟩
  · cases h

theorem is_refused {o : Out} {r : Refusal} (h : refusal o = some r) : o = .refused r := by
  unfold refusal at h
  split at h
  · cases h; rfl
  · cases h

theorem is_storable {s : State} {a : Word} {n : Nat} (h : (Accessible s a n ∧ NotText s a n) ∧ Memory.wf s.mem = true) :
    Storable s a n := ⟨h.1.1, h.1.2, h.2⟩

/-- The start state with an immediate prefix pending. -/
def prefixed (p : ImmPrefix) : State := { State.reset with ipfx := some p }

/-- The start state with a TRAPV pending. -/
def trapping (s : State) : State := { s with tpfx := true }

/-- A machine whose `TRAP_MODE` is handler. -/
def continuing (s : State) : State := { s with launch := { s.launch with trapMode := .handler } }

/-- A state with program text at 2000h..2007h. -/
def texted (s : State) : State := { s with launch := { s.launch with text := [⟨0x2000, 8⟩] } }

/-- A state with a pending interrupt input of a source the launch has, IM at `im`. -/
def interrupted (maskable im target : Bool) : State :=
  { State.reset with
    sr := if im then 0x8000 else 0
    irqPending := [⟨1, maskable⟩]
    launch := { Config.resetLaunch with irqSources := [⟨1, maskable⟩], irqTargetSupplied := target } }

theorem test_meets_EncodeOfDecode : decode [0xEA, 0x01] = .ok (.nop, [0x01]) := by decide +kernel

theorem test_meets_IllegalEncodings :
    unassigned (0x03#8).toNat = true ∧ unassigned (0xFF#8).toNat = true ∧ unassigned (0x00#8).toNat = false ∧
    encode .nop = [0xEA] ∧ (0x07#8).toNat ∉ [0x08, 0x09, 0x0A] ∧ (0x0B#8).toNat ∉ [0x08, 0x09, 0x0A] ∧
    (0x55#8).toNat ∉ [0x04, 0x20, 0x40, 0x41, 0x42, 0x43, 0x44, 0x50, 0x51, 0x52, 0x53, 0x54] ∧
    (0x50#8).toNat ∈ [0x50, 0x51, 0x52, 0x53, 0x54] ∧ 64 ≤ (64#8).toNat ∧ 64 ≤ (255#8).toNat := by decide +kernel

/-- A one-byte and a nine-byte instruction, the second at the end of the memory that exists. -/
theorem test_meets_StepRunsTheDecodedInstruction :
    let s : State := State.reset.withFetchWord 8 0xEA
    let u : State := within 0x2000 9 { State.reset with pc := 0x2000, mem := placeBytes [] 0x2000 (encode (.imm64 5)) }
    (s.irqToTake = none ∧ (∀ k < Instr.length .nop, s.present (nth s.pc k) = true) ∧
      ∀ k (h : k < (encode .nop).length), s.byteAt (nth s.pc k) = (encode .nop)[k]) ∧
    (u.irqToTake = none ∧ (∀ k < Instr.length (.imm64 5), u.present (nth u.pc k) = true) ∧
      ∀ k (h : k < (encode (.imm64 5)).length), u.byteAt (nth u.pc k) = (encode (.imm64 5))[k]) := by decide +kernel

/-- Nothing at the pc; an unassigned first byte at the last address; the last of five bytes missing; a function code that is not
listed. Each in the terminal and in the continuing machine. -/
theorem test_meets_FetchRaises :
    let bare : State := within 0x2000 4 { State.reset with pc := 0x1010 }
    let last : State := within 0x2000 4 { State.reset with pc := 0x2003, mem := [(0x2003, 0x03)] }
    let short : State := within 0x2000 4 { State.reset with pc := 0x2000, mem := placeBytes [] 0x2000 [0x02, 0x01, 0x02, 0x03] }
    let bad : State := { State.reset with mem := placeBytes [] 0x1000 [0x02, 0x01, 0x02, 0x03, 0x05] }
    (bare.irqToTake = none ∧ bare.present bare.pc = false ∧ bare.launch.trapMode = .terminal ∧
      (continuing bare).irqToTake = none ∧ (continuing bare).present bare.pc = false ∧
      (continuing bare).launch.trapMode = .handler) ∧
    (last.irqToTake = none ∧ last.present last.pc = true ∧ unassigned (last.byteAt last.pc).toNat = true) ∧
    (short.irqToTake = none ∧ short.present short.pc = true ∧ opcodeLength (short.byteAt short.pc) = some 5 ∧
      ∃ k < 5, short.present (nth short.pc k) = false) ∧
    (bad.irqToTake = none ∧ bad.present bad.pc = true ∧ opcodeLength (bad.byteAt bad.pc) = some 5 ∧
      (∀ k < 5, bad.present (nth bad.pc k) = true)) ∧
    decode ((List.range 5).map fun k => bad.byteAt (nth bad.pc k)) = .error (.unassignedFunction 0x02 0x05) := by
  decide +kernel

theorem test_meets_StepKeepsInvariant :
    Invariant (started [(1, 5)]) ∧ ∃ t, step ((started [(1, 5)]).withFetchWord 32 0x000100A0) = .next t :=
  ⟨⟨by decide +kernel, by decide +kernel⟩, goes_on (by decide +kernel)⟩

/-- Break, IllegalInstruction, Overflow and, for the other two, an address that is not the pc. -/
theorem test_meets_ExceptionsArePrecise :
    (∃ u, step State.reset = .fault (.trapped .brk 0x1000 u)) ∧
    (∃ u, run [0x03] State.reset = .fault (.trapped .illegalInstruction 0x1000 u)) ∧
    (∃ u, run [0x02, 0x01, 0x01, 0x01, 0x04] (trapping (started [(1, 0x8000000000000000)]))
      = .fault (.trapped .overflow 0x1000 u)) ∧
    (∃ u, run [0x82, 0x02, 0x03, 0x01] (started [(2, 0x2000)]) = .fault (.trapped .misaligned 0x2001 u)) ∧
    ∃ u, run [0x80, 0x02, 0x03, 0x04] (within 0x2000 4 (started [(2, 0x2000)])) = .fault (.trapped .accessFault 0x2004 u) :=
  ⟨ends_in (by decide +kernel), ends_in (by decide +kernel), ends_in (by decide +kernel), ends_in (by decide +kernel),
    ends_in (by decide +kernel)⟩

theorem test_meets_StepKeepsLaunchAndInputs :
    (∃ t, run [0xEA] (interrupted true true true) = .next t) ∧
    ∃ u, run [0x00] (interrupted true true true) = .fault (.trapped .brk 0x1000 u) :=
  ⟨goes_on (by decide +kernel), ends_in (by decide +kernel)⟩

/-- A step that takes no interrupt, IM clear, and one that takes an interrupt. -/
theorem test_meets_StatusRegisterFields :
    (∃ t, run [0xEA] { State.reset with sr := 0x80000000 } = .next t) ∧
    (State.placeAtPc { State.reset with sr := 0x80000000 } [0xEA]).irqToTake = none ∧
    (State.placeAtPc { State.reset with sr := 0x80000000 } [0xEA]).im = false ∧
    ∃ t, step (interrupted false true true) = .next t :=
  ⟨goes_on (by decide +kernel), by decide +kernel, by decide +kernel, goes_on (by decide +kernel)⟩

/-- A writer and the flag registers it does not name; a writer in two states; a reader, a refusal and an exception in two states
whose flag registers differ elsewhere. -/
theorem test_meets_FlagRegisterUse :
    let fs : Vector (BitVec 4) 8 := State.reset.flags.set 7 0b1111
    ((∃ t, exec (.tst 1 5) State.reset = .next t) ∧ flagTarget (.tst 1 5) ≠ some 0 ∧ flagTarget .nop ≠ some 7) ∧
    ((∃ t, exec (.tst 1 5) { State.reset with flags := fs } = .next t) ∧ flagTarget (.tst 1 5) = some 1) ∧
    (∀ j, flagSource (.beq 0 4) = some j → ({ State.reset with flags := fs } : State).flag j = State.reset.flag j) ∧
    (∃ t, exec (.beq 0 4) State.reset = .next t) ∧ exec (.push 63) State.reset = .refused .pushOfSp ∧
    ∃ u, exec .brk State.reset = .fault (.trapped .brk 0x1000 u) :=
  ⟨⟨goes_on (by decide +kernel), by decide, by decide⟩, ⟨goes_on (by decide +kernel), by decide⟩, by decide +kernel,
    goes_on (by decide +kernel), is_refused (by decide +kernel), ends_in (by decide +kernel)⟩

theorem test_meets_GeneralRegisterWriters :
    (∃ t, exec (.push 1) State.reset = .next t) ∧ regTarget (.push 1) ≠ some 2 ∧ movesSp (.push 1) = true ∧
    (2#8 : RegNum) ≠ State.reset.launch.spReg ∧ (∃ t, exec (.pop 0) State.reset = .next t) ∧
    (∃ t, exec (.addI 0 1 5) State.reset = .next t) ∧ regTarget (.addI 0 1 5) ≠ some 255 ∧ movesSp (.addI 0 1 5) = false :=
  ⟨goes_on (by decide +kernel), by decide, rfl, by decide, goes_on (by decide +kernel), goes_on (by decide +kernel), by decide,
    rfl⟩

/-- CA14, CA13 in a terminal machine, and CA1 beside a JALR to CA2. -/
theorem test_meets_CodeAddressRegisterWriters :
    (∃ t, exec .nop State.reset = .next t) ∧ (14#4 : CaNum) ≠ 15#4 ∧ caTarget .nop ≠ some 14 ∧ caTarget .nop ≠ some 13 ∧
    State.reset.launch.trapMode = .terminal ∧ (∃ t, exec (.jalr 2 1) State.reset = .next t) ∧ caTarget (.jalr 2 1) ≠ some 1 :=
  ⟨goes_on (by decide +kernel), by decide, by decide, by decide, rfl, goes_on (by decide +kernel), by decide⟩

/-- A load, and a store beside the program text. -/
theorem test_meets_MemoryWriters :
    ((∃ t, exec (.lb 3 2 0) State.reset = .next t) ∧ mayStore (.lb 3 2 0) = false) ∧
    (∃ t, exec (.sb 1 2 8) (texted (started [(1, 5), (2, 0x2000)])) = .next t) ∧
    Memory.wf (texted (started [(1, 5), (2, 0x2000)])).mem = true ∧
    (texted (started [(1, 5), (2, 0x2000)])).isText 0x2007 = true :=
  ⟨⟨goes_on (by decide +kernel), rfl⟩, goes_on (by decide +kernel), by decide +kernel, by decide +kernel⟩

/-- An instruction at the top of the address space, a target under a prefix, and a prefix. -/
theorem test_meets_EndOfInstruction :
    ((∃ t, exec .nop { State.reset with pc := 0xFFFFFFFFFFFFFFFF } = .next t) ∧
      State.reset.launch.trapMode = .terminal ∧ mayJump .nop = false ∧ isPrefix .nop = false) ∧
    ((∃ t, exec (.addI 3 0 5) (prefixed (.imm8 1)) = .next t) ∧ isPrefix (.addI 3 0 5) = false) ∧
    ((∃ t, exec (.imm64 5) State.reset = .next t) ∧ mayJump (.imm64 5) = false) :=
  ⟨⟨goes_on (by decide +kernel), rfl, rfl, rfl⟩, ⟨goes_on (by decide +kernel), rfl⟩, goes_on (by decide +kernel), rfl⟩

/-- An immediate prefix that is not accepted, one too wide by a byte, and a TRAPV that is not accepted. -/
theorem test_meets_PrefixAdmission :
    (isPrefix .nop = false ∧ Instr.admits ((prefixed (.imm8 1)).ipfx.map ImmPrefix.bits) false .nop = false) ∧
    (isPrefix (.addI 3 0 0) = false ∧ Instr.admits ((prefixed (.imm64 0)).ipfx.map ImmPrefix.bits) false (.addI 3 0 0) = false) ∧
    (isPrefix (.subI 3 1 1) = false ∧ Instr.admits none (trapping State.reset).tpfx (.subI 3 1 1) = false) := by
  decide +kernel

/-- Taken: a non-maskable source under IM and a maskable one without it. Not taken: a maskable one under IM, and any with a prefix
pending. -/
theorem test_meets_InterruptAdmission :
    (interrupted false true true).irqToTake = some ⟨1, false⟩ ∧ (interrupted true false true).irqToTake = some ⟨1, true⟩ ∧
    (interrupted true true true).irqToTake = none ∧ (trapping (interrupted false false true)).irqToTake = none := by
  decide +kernel

theorem test_meets_InterruptEntry :
    ((interrupted true false false).irqToTake = some ⟨1, true⟩ ∧
      (interrupted true false false).launch.irqTargetSupplied = false) ∧
    (interrupted true false true).irqToTake = some ⟨1, true⟩ ∧ (interrupted true false true).launch.irqTargetSupplied = true := by
  decide +kernel

/-- A field of 64 bits; prefix and field of exactly 64 bits, three ways; and of 65 and more. -/
theorem test_meets_ConstantFormation :
    ImmPrefix.bits (.imm64 0) + 0 ≤ 64 ∧ ImmPrefix.bits (.imm56 0) + 8 ≤ 64 ∧ ImmPrefix.bits (.imm48 0) + 16 ≤ 64 ∧
    64 < ImmPrefix.bits (.imm64 0) + 1 ∧ 64 < ImmPrefix.bits (.imm64 0) + 8 := by decide

theorem test_meets_MemoryIsExtensional :
    Memory.wf [(2 ^ 64 - 1, 5)] = true ∧ ∀ a < 2 ^ 64, Memory.read [(2 ^ 64 - 1, 5)] a = Memory.read [(2 ^ 64 - 1, 5)] a :=
  ⟨by decide +kernel, fun _ _ => rfl⟩

theorem test_meets_WrittenValueIsReadBack : Memory.wf [] = true ∧ Memory.wf [(0, 1)] = true ∧ 8 ≤ 8 := by decide

/-- The hypothesis of the statements about instructions that accept no prefix: CompareAndTest, SignExtensions, AndRegisters,
ShiftImmediates, ShiftRegisters, ShortBranches, LongBranches, JumpAndLink, NoOperation, UndescribedInstructionsAreRefused; a state
with a prefix pending, for the refusals; a target other than R0; and a machine of each `PCREL_BASE`. -/
theorem test_meets_NoPrefix :
    NoPrefix State.reset ∧ ¬NoPrefix (prefixed (.imm8 1)) ∧ ¬NoPrefix (trapping State.reset) ∧ (255#8 : RegNum) ≠ 0#8 ∧
    State.reset.launch.pcrelBase = .nextInsn ∧
    NoPrefix { State.reset with launch := { Config.resetLaunch with pcrelBase := .thisInsn } } := by
  unfold NoPrefix
  decide +kernel

/-- Also for ImmediateArithmetic and LoadEffectiveAddress: no prefix, and the widest that fit. -/
theorem test_meets_AddWraps :
    State.reset.tpfx = false ∧ State.reset.ipfx = none ∧ immConst State.reset.ipfx 0x80#8 = some 0xFFFFFFFFFFFFFF80 ∧
    (prefixed (.imm56 0x11223344556677)).tpfx = false ∧
    immConst (prefixed (.imm56 0x11223344556677)).ipfx 0x88#8 = some 0x1122334455667788 ∧
    immConst (prefixed (.imm64 0x8000000000000000)).ipfx 0#0 = some 0x8000000000000000 := by decide +kernel

/-- The sums 2^63 - 1, the largest that fits, and 2^63, register and immediate form. -/
theorem test_meets_AddUnderTrapv :
    let s := trapping (started [(1, 0x7FFFFFFFFFFFFFFF), (2, 1)])
    s.tpfx = true ∧ s.ipfx = none ∧ (s.reg 1).toInt + (s.reg 0).toInt = (s.reg 1 + s.reg 0).toInt ∧
    (s.reg 1).toInt + (s.reg 2).toInt ≠ (s.reg 1 + s.reg 2).toInt ∧
    immConst s.ipfx 0#8 = some 0 ∧ (s.reg 1).toInt + (0#64).toInt = (s.reg 1 + 0#64).toInt ∧
    immConst s.ipfx 1#8 = some 1 ∧ (s.reg 1).toInt + (1#64).toInt ≠ (s.reg 1 + 1#64).toInt := by decide +kernel

/-- The two corners, and beside them -2^63 by 1 and 2^63 - 1 by -1. -/
theorem test_meets_SignedDivision :
    let s := started [(1, 0x8000000000000000), (2, 0x7FFFFFFFFFFFFFFF)]
    s.tpfx = false ∧ immConst s.ipfx 0#8 = some 0 ∧
    (immConst s.ipfx 0xFF#8 = some 0xFFFFFFFFFFFFFFFF ∧ (s.reg 1).toInt = -2 ^ 63 ∧ (0xFFFFFFFFFFFFFFFF#64).toInt = -1) ∧
    (immConst s.ipfx 1#8 = some 1 ∧ (1#64 : Word) ≠ 0#64 ∧ ¬((s.reg 1).toInt = -2 ^ 63 ∧ (1#64).toInt = -1)) ∧
    ((0xFFFFFFFFFFFFFFFF#64 : Word) ≠ 0#64 ∧ ¬((s.reg 2).toInt = -2 ^ 63 ∧ (0xFFFFFFFFFFFFFFFF#64).toInt = -1)) := by
  decide +kernel

theorem test_meets_UnsignedDivision :
    State.reset.tpfx = false ∧ immConst State.reset.ipfx 0#8 = some 0 ∧
    immConst State.reset.ipfx 0xFF#8 = some 0xFFFFFFFFFFFFFFFF ∧ (0xFFFFFFFFFFFFFFFF#64 : Word) ≠ 0#64 := by decide +kernel

/-- Each comparison holds for some register and fails for some register: R1 = 5, R2 = -128 and R3 = 127 against 5 and its
neighbours in both orders. -/
theorem test_meets_SetInstructions :
    let s := started [(1, 5), (2, 0xFFFFFFFFFFFFFF80), (3, 6), (4, 4)]
    let k : Word := 5
    s.tpfx = false ∧ immConst s.ipfx 5#8 = some k ∧ s.reg 1 = k ∧ s.reg 2 ≠ k ∧
    ((s.reg 3).toInt > k.toInt ∧ ¬(s.reg 1).toInt > k.toInt) ∧ ((s.reg 1).toInt ≤ k.toInt ∧ ¬(s.reg 3).toInt ≤ k.toInt) ∧
    ((s.reg 1).toInt ≥ k.toInt ∧ ¬(s.reg 2).toInt ≥ k.toInt) ∧ ((s.reg 2).toInt < k.toInt ∧ ¬(s.reg 1).toInt < k.toInt) ∧
    ((s.reg 2).toNat > k.toNat ∧ ¬(s.reg 1).toNat > k.toNat) ∧ ((s.reg 1).toNat ≤ k.toNat ∧ ¬(s.reg 2).toNat ≤ k.toNat) ∧
    ((s.reg 1).toNat ≥ k.toNat ∧ ¬(s.reg 4).toNat ≥ k.toNat) ∧ ((s.reg 4).toNat < k.toNat ∧ ¬(s.reg 1).toNat < k.toNat) := by
  decide +kernel

/-- The register values 0, 1, 2^63 - 1 and -2^63; also for DecrementAndBranch, whose clauses part at 1. -/
theorem test_meets_RegisterBranches :
    let s := started [(1, 1), (2, 0x7FFFFFFFFFFFFFFF), (3, 0x8000000000000000)]
    (s.ipfx = none ∧ s.tpfx = false) ∧ s.reg 4 = 0#64 ∧ s.reg 1 ≠ 0#64 ∧ s.reg 1 = 1#64 ∧ s.reg 4 ≠ 1#64 ∧ (s.reg 3).toInt < 0 ∧
    ¬(s.reg 4).toInt < 0 ∧ 0 ≤ (s.reg 2).toInt ∧ 0 ≤ (s.reg 4).toInt ∧ ¬0 ≤ (s.reg 3).toInt := by decide +kernel

theorem test_meets_ReturnFromSubroutine :
    (State.reset.ipfx = none ∧ State.reset.tpfx = false) ∧ ∃ t, exec (.jalr 1 1) (State.reset.setCa 1 0x4000) = .next t :=
  ⟨⟨rfl, rfl⟩, goes_on (by decide +kernel)⟩

/-- The last addresses of the widths 1, 2, 4 and 8 in the address space, which -1, -2, -4 and -8 reach from R0. -/
theorem test_meets_Loads :
    let s := State.reset
    s.tpfx = false ∧ immConst s.ipfx 0xFF#8 = some (-1) ∧ immConst s.ipfx 0xFE#8 = some (-2) ∧
    immConst s.ipfx 0xFC#8 = some (-4) ∧ immConst s.ipfx 0xF8#8 = some (-8) ∧ Accessible s (s.reg 0 + -1) 1 ∧
    Accessible s (s.reg 0 + -2) 2 ∧ Accessible s (s.reg 0 + -4) 4 ∧ Accessible s (s.reg 0 + -8) 8 := by
  unfold Accessible MisalignedAt
  decide +kernel

/-- Without a prefix K is 0; with IMM64 it is the prefix. -/
theorem test_meets_IndexedLoads :
    let s := started [(1, 0x2000), (2, 8)]
    let p := prefixed (.imm64 0x2000)
    s.tpfx = false ∧ s.ipfx = none ∧ immConst s.ipfx 0#0 = some 0 ∧ Accessible s (s.reg 1 + s.reg 2 + 0) 1 ∧
    Accessible s (s.reg 1 + s.reg 2 + 0) 2 ∧ Accessible s (s.reg 1 + s.reg 2 + 0) 4 ∧ Accessible s (s.reg 1 + s.reg 2 + 0) 8 ∧
    immConst p.ipfx 0#0 = some 0x2000 ∧ Accessible p (p.reg 1 + p.reg 2 + 0x2000) 8 := by
  unfold Accessible MisalignedAt
  decide +kernel

/-- For each width that can be misaligned an address that is; for each width an address whose last byte only does not exist; and
an accessible one whose last byte only is text. -/
theorem test_meets_LoadsAndStoresStop :
    let s := started [(1, 0x2000)]
    let h (n : Nat) := within 0x2000 n s
    let x := texted s
    s.tpfx = false ∧ immConst s.ipfx 1#8 = some 1 ∧ immConst s.ipfx 0#8 = some 0 ∧ immConst s.ipfx 0#0 = some 0 ∧
    (MisalignedAt s (s.reg 1 + 1) 2 ∧ MisalignedAt s (s.reg 1 + 1) 4 ∧ MisalignedAt s (s.reg 1 + 1) 8) ∧
    (AbsentAt (h 0) ((h 0).reg 1 + 0) 1 ∧ AbsentAt (h 1) ((h 1).reg 1 + 0) 2 ∧ AbsentAt (h 3) ((h 3).reg 1 + 0) 4 ∧
      AbsentAt (h 7) ((h 7).reg 1 + 0) 8) ∧
    (Accessible x (x.reg 1 + 0) 1 ∧ ¬NotText x (x.reg 1 + 0) 1 ∧ Accessible x (x.reg 1 + 0) 8 ∧ ¬NotText x (x.reg 1 + 0) 8 ∧
      Accessible x (x.reg 1 + 0) 2 ∧ ¬NotText x (x.reg 1 + 0) 2 ∧ Accessible x (x.reg 1 + 0) 4 ∧
      ¬NotText x (x.reg 1 + 0) 4) := by
  unfold Accessible AbsentAt MisalignedAt NotText
  decide +kernel

/-- Stores of each width just past the program text. -/
theorem test_meets_Stores :
    let s := texted (started [(1, 0x2000), (2, 8)])
    (s.tpfx = false ∧ immConst s.ipfx 8#8 = some 8 ∧ immConst s.ipfx 0#0 = some 0) ∧ Storable s (s.reg 1 + 8) 1 ∧
    Storable s (s.reg 1 + 8) 2 ∧ Storable s (s.reg 1 + 8) 4 ∧ Storable s (s.reg 1 + s.reg 2 + 0) 8 := by
  refine ⟨by decide +kernel, is_storable ?_, is_storable ?_, is_storable ?_, is_storable ?_⟩ <;>
    (unfold Accessible MisalignedAt NotText; decide +kernel)

theorem test_meets_Pushes :
    let s := started [(63, 8)]
    (s.tpfx = false ∧ s.ipfx = none ∧ (1#8 : RegNum) ≠ s.launch.spReg ∧ immConst s.ipfx 0xFFFE#16 = some (-2)) ∧
    Storable s (s.sp - 8#64) 8 ∧ Storable State.reset (State.reset.sp - 8#64) 8 := by
  refine ⟨by decide +kernel, is_storable ?_, is_storable ?_⟩ <;> (unfold Accessible MisalignedAt NotText; decide +kernel)

theorem test_meets_PopReadsTheStack :
    let s := started [(63, 0xFFFFFFFFFFFFFFF8)]
    (s.ipfx = none ∧ s.tpfx = false) ∧ (2#8 : RegNum) ≠ s.launch.spReg ∧ s.launch.spReg ≠ 0#8 ∧ Accessible s s.sp 8 ∧
    (2#8 : RegNum) ≠ 0#8 := by
  unfold Accessible MisalignedAt
  decide +kernel

/-- An SP that is no multiple of 8, a word whose last byte does not exist, and a push onto the program text. -/
theorem test_meets_StackStops :
    let m := started [(63, 0x8004)]
    let a := within 0x2000 7 (started [(63, 0x2008)])
    let p := within 0x2000 7 (started [(63, 0x2000)])
    let x := texted (started [(63, 0x2008)])
    (m.tpfx = false ∧ m.ipfx = none ∧ (1#8 : RegNum) ≠ m.launch.spReg ∧ (1#8 : RegNum) ≠ 0#8 ∧
      immConst m.ipfx 0#16 = some 0) ∧
    MisalignedAt m (m.sp - 8#64) 8 ∧ MisalignedAt m m.sp 8 ∧ AbsentAt a (a.sp - 8#64) 8 ∧ AbsentAt p p.sp 8 ∧
    Accessible x (x.sp - 8#64) 8 ∧ ¬NotText x (x.sp - 8#64) 8 := by
  unfold Accessible AbsentAt MisalignedAt NotText
  decide +kernel

theorem test_meets_PushThenPop :
    let s := started [(63, 0x8000), (1, 5)]
    ((s.ipfx = none ∧ s.tpfx = false) ∧ s.launch.spReg ≠ 0#8 ∧ (2#8 : RegNum) ≠ s.launch.spReg ∧ (2#8 : RegNum) ≠ 0#8) ∧
    Storable s (s.sp - 8#64) 8 ∧ ∃ t, exec (.push 1) s = .next t := by
  refine ⟨by decide +kernel, is_storable ?_, goes_on (by decide +kernel)⟩
  unfold Accessible MisalignedAt NotText
  decide +kernel

/-- The swap made, the swap not made, and the swap on the program text. -/
theorem test_meets_CompareAndSwap :
    let s := having 0x3000 [5] (started [(1, 0x3000), (2, 5), (3, 9)])
    let x := texted (started [(1, 0x2000)])
    (s.tpfx = false ∧ immConst s.ipfx 0#0 = some 0 ∧ (s.reg 1 + 0).toNat % 8 = 0 ∧ s.wordAt (s.reg 1 + 0) = s.reg 2 ∧
      s.wordAt (s.reg 1 + 0) ≠ s.reg 3 ∧ (x.reg 1 + 0).toNat % 8 = 0 ∧ x.wordAt (x.reg 1 + 0) = x.reg 2) ∧
    (Accessible s (s.reg 1 + 0) 8 ∧ Accessible x (x.reg 1 + 0) 8 ∧ ¬NotText x (x.reg 1 + 0) 8) ∧
    Storable s (s.reg 1 + 0) 8 := by
  refine ⟨by decide +kernel, ?_, is_storable ?_⟩ <;> (unfold Accessible MisalignedAt NotText; decide +kernel)

theorem test_meets_CompareAndSwapRaises :
    let m := started [(1, 0x3001)]
    let a := within 0x3000 7 (started [(1, 0x3000)])
    m.tpfx = false ∧ immConst m.ipfx 0#0 = some 0 ∧ (m.reg 1 + 0).toNat % 8 ≠ 0 ∧ immConst a.ipfx 0#0 = some 0 ∧
    (a.reg 1 + 0).toNat % 8 = 0 ∧ AbsentAt a (a.reg 1 + 0) 8 := by
  unfold AbsentAt MisalignedAt
  decide +kernel

/-- Without and with an interrupt input pending that IM holds off; and an instruction that goes on with IM clear. -/
theorem test_meets_ClearInterruptMask :
    let s := interrupted true true true
    (State.reset.ipfx = none ∧ State.reset.tpfx = false) ∧ (s.ipfx = none ∧ s.tpfx = false) ∧ s.irqToTake = none ∧
    (∀ src ∈ s.irqPending, src ∈ s.launch.irqSources) ∧ ({ State.reset with sr := 0 } : State).im = false ∧
    ∃ t, exec .nop { State.reset with sr := 0 } = .next t :=
  ⟨⟨rfl, rfl⟩, ⟨rfl, rfl⟩, by decide +kernel, by decide +kernel, by decide +kernel, goes_on (by decide +kernel)⟩

/-- Both values of `TRAP_MODE`, on which every statement with `Raises` parts. -/
theorem test_meets_BreakRaises :
    (State.reset.ipfx = none ∧ State.reset.tpfx = false) ∧ State.reset.launch.trapMode = .terminal ∧
    ((continuing State.reset).ipfx = none ∧ (continuing State.reset).tpfx = false) ∧
    (continuing State.reset).launch.trapMode = .handler ∧ ∃ t, exec .brk (continuing State.reset) = .next t :=
  ⟨⟨rfl, rfl⟩, rfl, ⟨rfl, rfl⟩, rfl, goes_on (by decide +kernel)⟩

/-- Each prefix with none pending, with one of the other kind pending, and with one of its own kind pending. -/
theorem test_meets_Prefixes :
    State.reset.tpfx = false ∧ State.reset.ipfx = none ∧ (trapping State.reset).tpfx = true ∧
    (trapping State.reset).ipfx = none ∧ (prefixed (.imm8 1)).tpfx = false ∧ (prefixed (.imm8 1)).ipfx ≠ none := by
  decide +kernel

theorem test_meets_WidestPrefixes :
    let s := started [(63, 0x8000)]
    s.tpfx = false ∧ (∃ t, exec (.imm56 1) s = .next t) ∧ (∃ t, exec (.imm64 1) s = .next t) ∧
    ∃ t, exec (.imm48 1) s = .next t ∧ Storable t (t.sp - 8#64) 8 := by
  refine ⟨rfl, goes_on (by decide +kernel), goes_on (by decide +kernel), _, rfl, is_storable ?_⟩
  unfold Accessible MisalignedAt NotText
  decide +kernel

end Sys2Proof.Machine.Tests
end

namespace Sys2Proof.Machine

/-! ### Replacing the flag registers

A meaning that uses no flag register commutes with replacing all of them (`exec_withFlags`). That one equation says both that
the instruction reads no flag register and, taken at the flag registers the state holds, that it writes none. -/

/-- The state with its flag registers replaced. -/
def State.withFlags (s : State) (fs : Vector (BitVec 4) 8) : State := { s with flags := fs }

/-- The outcome with the flag registers of the state it carries replaced. -/
def Out.withFlags (fs : Vector (BitVec 4) 8) : Out → Out
  | .next t => .next (t.withFlags fs)
  | .fault (.trapped e info u) => .fault (.trapped e info (u.withFlags fs))
  | .refused r => .refused r

section
variable (s : State) (fs : Vector (BitVec 4) 8)

@[simp] theorem withFlags_flags : (s.withFlags fs).flags = fs := rfl
@[simp] theorem withFlags_self : s.withFlags s.flags = s := rfl
@[simp] theorem withFlags_pc : (s.withFlags fs).pc = s.pc := rfl
@[simp] theorem withFlags_ipfx : (s.withFlags fs).ipfx = s.ipfx := rfl
@[simp] theorem withFlags_tpfx : (s.withFlags fs).tpfx = s.tpfx := rfl
@[simp] theorem withFlags_launch : (s.withFlags fs).launch = s.launch := rfl
@[simp] theorem withFlags_reg (r : RegNum) : (s.withFlags fs).reg r = s.reg r := rfl
@[simp] theorem withFlags_sp : (s.withFlags fs).sp = s.sp := rfl
@[simp] theorem withFlags_branchPc {w : Nat} (taken : Bool) (len : Word) (disp : BitVec w) :
    (s.withFlags fs).branchPc taken len disp = s.branchPc taken len disp := rfl
@[simp] theorem withFlags_accessCheck (a : Word) (n : Nat) :
    (s.withFlags fs).accessCheck a n = s.accessCheck a n := rfl
@[simp] theorem withFlags_isText : (s.withFlags fs).isText = s.isText := rfl

@[simp] theorem setReg_withFlags (r : RegNum) (v : Word) :
    (s.withFlags fs).setReg r v = (s.setReg r v).withFlags fs := by
  unfold State.setReg; split <;> rfl
@[simp] theorem setCa_withFlags (i : CaNum) (v : Word) :
    (s.withFlags fs).setCa i v = (s.setCa i v).withFlags fs := by
  unfold State.setCa; split <;> [rfl; (split <;> rfl)]
@[simp] theorem setSp_withFlags (v : Word) : (s.withFlags fs).setSp v = (s.setSp v).withFlags fs := by
  simp [State.setSp]
@[simp] theorem jump_withFlags (target : Word) : (s.withFlags fs).jump target = (s.jump target).withFlags fs := rfl
@[simp] theorem finish_withFlags (len : Word) : (s.withFlags fs).finish len = (s.finish len).withFlags fs := rfl
@[simp] theorem result_withFlags (rt : RegNum) (v len : Word) :
    (s.withFlags fs).result rt v len = (s.result rt v len).withFlags fs := by
  simp [State.result]
@[simp] theorem enterException_withFlags : (s.withFlags fs).enterException = s.enterException.withFlags fs := by
  unfold State.enterException
  rw [withFlags_pc, setCa_withFlags]
  rfl

end

/-! ### The shared operations commute with replacing the flag registers -/

section
variable {s : State} {fs : Vector (BitVec 4) 8}

theorem raise_withFlags (e : Exn) (info : Word) :
    raise e info (s.withFlags fs) = Out.withFlags fs (raise e info s) := by
  unfold raise
  rw [withFlags_launch, enterException_withFlags]
  cases s.launch.trapMode <;> rfl

theorem noImmPrefix_withFlags {k k' : Out} (h : k' = Out.withFlags fs k) :
    noImmPrefix (s.withFlags fs) k' = Out.withFlags fs (noImmPrefix s k) := by
  unfold noImmPrefix
  rw [withFlags_ipfx, h]
  cases s.ipfx <;> rfl

theorem noTrapv_withFlags {k k' : Out} (h : k' = Out.withFlags fs k) :
    noTrapv (s.withFlags fs) k' = Out.withFlags fs (noTrapv s k) := by
  unfold noTrapv
  rw [withFlags_tpfx, h]
  cases s.tpfx <;> rfl

theorem noPrefixes_withFlags {k k' : Out} (h : k' = Out.withFlags fs k) :
    noPrefixes (s.withFlags fs) k' = Out.withFlags fs (noPrefixes s k) :=
  noImmPrefix_withFlags (noTrapv_withFlags h)

/-- An instruction that accepts no IMMn or TRAPV before it and ends in one next state. -/
theorem noPrefixes_next_withFlags {t t' : State} (h : t' = t.withFlags fs) :
    noPrefixes (s.withFlags fs) (.next t') = Out.withFlags fs (noPrefixes s (.next t)) :=
  noPrefixes_withFlags (by rw [h]; rfl)

theorem withConst_withFlags {w : Nat} {f : BitVec w} {k k' : Word → Out} (h : ∀ c, k' c = Out.withFlags fs (k c)) :
    withConst f (s.withFlags fs) k' = Out.withFlags fs (withConst f s k) := by
  unfold withConst
  rw [withFlags_ipfx]
  cases immConst s.ipfx f with
  | none => rfl
  | some c => exact h c

theorem withDisp_withFlags {ra : RegNum} {disp : BitVec 8} {k k' : Word → Out}
    (h : ∀ ea, k' ea = Out.withFlags fs (k ea)) :
    withDisp ra disp (s.withFlags fs) k' = Out.withFlags fs (withDisp ra disp s k) :=
  noTrapv_withFlags (withConst_withFlags fun _ => h _)

theorem withIndex_withFlags {ra rb : RegNum} {k k' : Word → Out} (h : ∀ ea, k' ea = Out.withFlags fs (k ea)) :
    withIndex ra rb (s.withFlags fs) k' = Out.withFlags fs (withIndex ra rb s k) :=
  noTrapv_withFlags (withConst_withFlags fun _ => h _)

theorem memRead_withFlags {a : Word} {n : Nat} {k k' : BitVec (8 * n) → Out} (h : ∀ v, k' v = Out.withFlags fs (k v)) :
    memRead (s.withFlags fs) a n k' = Out.withFlags fs (memRead s a n k) := by
  unfold memRead
  rw [withFlags_accessCheck]
  cases s.accessCheck a n with
  | none => exact h _
  | some e => exact raise_withFlags e a

theorem memWrite_withFlags {a : Word} {n : Nat} {v : BitVec (8 * n)} {k k' : State → Out}
    (h : ∀ u : State, k' (u.withFlags fs) = Out.withFlags fs (k u)) :
    memWrite (s.withFlags fs) a n v k' = Out.withFlags fs (memWrite s a n v k) := by
  unfold memWrite
  rw [withFlags_accessCheck, withFlags_isText]
  cases s.accessCheck a n with
  | some e => exact raise_withFlags e a
  | none =>
    cases anyByte s.isText a n with
    | true => rfl
    | false => exact h { s with mem := Memory.writeLE s.mem a n v }

/-- Writing a general register and going on. -/
theorem next_result_withFlags (rt : RegNum) (v len : Word) :
    (.next ((s.withFlags fs).result rt v len) : Out) = Out.withFlags fs (.next (s.result rt v len)) := by
  rw [result_withFlags]; rfl

/-! ### The families of instructions commute with replacing the flag registers -/

theorem signExtendOp_withFlags (n : Nat) (rt ra : RegNum) :
    signExtendOp n rt ra (s.withFlags fs) = Out.withFlags fs (signExtendOp n rt ra s) :=
  noPrefixes_next_withFlags (result_withFlags ..)

theorem execAndR_withFlags (rt ra rb : RegNum) :
    execAndR rt ra rb (s.withFlags fs) = Out.withFlags fs (execAndR rt ra rb s) :=
  noPrefixes_next_withFlags (result_withFlags ..)

theorem shiftReg_withFlags (f : Word → Nat → Word) (rt ra rb : RegNum) :
    shiftReg f rt ra rb (s.withFlags fs) = Out.withFlags fs (shiftReg f rt ra rb s) :=
  noPrefixes_next_withFlags (result_withFlags ..)

theorem shiftImm_withFlags (f : Word → Nat → Word) (rt ra : RegNum) (imm : BitVec 6) :
    shiftImm f rt ra imm (s.withFlags fs) = Out.withFlags fs (shiftImm f rt ra imm s) :=
  noPrefixes_next_withFlags (result_withFlags ..)

theorem riOp_withFlags (f : Word → Word → Word) (rt ra : RegNum) (imm : BitVec 8) :
    riOp f rt ra imm (s.withFlags fs) = Out.withFlags fs (riOp f rt ra imm s) :=
  noTrapv_withFlags (withConst_withFlags fun _ => next_result_withFlags ..)

theorem divOp_withFlags (corner : Word → Word → Bool) (f : Word → Word → Word) (rt ra : RegNum) (imm : BitVec 8) :
    divOp corner f rt ra imm (s.withFlags fs) = Out.withFlags fs (divOp corner f rt ra imm s) := by
  refine noTrapv_withFlags (withConst_withFlags fun c => ?_)
  rw [withFlags_reg, next_result_withFlags]
  cases corner (s.reg ra) c <;> rfl

theorem addOp_withFlags (rt : RegNum) (a b len : Word) :
    addOp rt a b len (s.withFlags fs) = Out.withFlags fs (addOp rt a b len s) := by
  unfold addOp
  rw [withFlags_tpfx, withFlags_pc, raise_withFlags, next_result_withFlags]
  cases s.tpfx && addOverflows a b <;> rfl

/-- A short branch reads the flag register it names and no other. -/
theorem shortBranch_withFlags (c : Cond) {fa : FlagNum} (disp : BitVec 5)
    (h : (s.withFlags fs).flag fa = s.flag fa) :
    shortBranch c fa disp (s.withFlags fs) = Out.withFlags fs (shortBranch c fa disp s) :=
  noPrefixes_next_withFlags (by rw [h]; rfl)

/-- A long branch reads the flag register it names and no other. -/
theorem longBranch_withFlags (c : Cond) {fa : FlagNum} (disp : BitVec 13)
    (h : (s.withFlags fs).flag fa = s.flag fa) :
    longBranch c fa disp (s.withFlags fs) = Out.withFlags fs (longBranch c fa disp s) :=
  noPrefixes_next_withFlags (by rw [h]; rfl)

theorem regBranch_withFlags (p : Word → Bool) (ra : RegNum) (disp : BitVec 8) :
    regBranch p ra disp (s.withFlags fs) = Out.withFlags fs (regBranch p ra disp s) :=
  noPrefixes_next_withFlags rfl

theorem execDbnz_withFlags (ra : RegNum) (disp : BitVec 8) :
    execDbnz ra disp (s.withFlags fs) = Out.withFlags fs (execDbnz ra disp s) :=
  noPrefixes_next_withFlags (by simp)

theorem jumpAndLink_withFlags (bd : CaNum) (target len : Word) :
    jumpAndLink bd target len (s.withFlags fs) = Out.withFlags fs (jumpAndLink bd target len s) :=
  noPrefixes_next_withFlags (by simp)

theorem loadSigned_withFlags (n : Nat) (rt : RegNum) (ea : Word) :
    loadSigned n rt (s.withFlags fs) ea = Out.withFlags fs (loadSigned n rt s ea) :=
  memRead_withFlags fun _ => next_result_withFlags ..

theorem loadUnsigned_withFlags (n : Nat) (rt : RegNum) (ea : Word) :
    loadUnsigned n rt (s.withFlags fs) ea = Out.withFlags fs (loadUnsigned n rt s ea) :=
  memRead_withFlags fun _ => next_result_withFlags ..

theorem loadAddress_withFlags (rt : RegNum) (ea : Word) :
    loadAddress rt (s.withFlags fs) ea = Out.withFlags fs (loadAddress rt s ea) :=
  next_result_withFlags ..

theorem store_withFlags (n : Nat) (rs : RegNum) (ea : Word) :
    store n rs (s.withFlags fs) ea = Out.withFlags fs (store n rs s ea) :=
  memWrite_withFlags fun _ => rfl

theorem pushWord_withFlags (v len : Word) :
    pushWord v len (s.withFlags fs) = Out.withFlags fs (pushWord v len s) :=
  memWrite_withFlags fun u => by rw [withFlags_sp, setSp_withFlags]; rfl

theorem execPush_withFlags (ra : RegNum) : execPush ra (s.withFlags fs) = Out.withFlags fs (execPush ra s) := by
  refine noPrefixes_withFlags ?_
  rw [withFlags_launch, withFlags_reg, pushWord_withFlags]
  split <;> rfl

theorem execPushc_withFlags (imm : BitVec 16) :
    execPushc imm (s.withFlags fs) = Out.withFlags fs (execPushc imm s) :=
  noTrapv_withFlags (withConst_withFlags fun _ => pushWord_withFlags ..)

theorem execPop_withFlags (rt : RegNum) : execPop rt (s.withFlags fs) = Out.withFlags fs (execPop rt s) := by
  refine noPrefixes_withFlags ?_
  rw [withFlags_launch, withFlags_sp, setSp_withFlags]
  split
  · rfl
  · split
    · rfl
    · exact memRead_withFlags fun v => by rw [setReg_withFlags, setSp_withFlags]; rfl

theorem execCas_withFlags (rt rb rc ra : RegNum) :
    execCas rt rb rc ra (s.withFlags fs) = Out.withFlags fs (execCas rt rb rc ra s) := by
  refine noTrapv_withFlags (withConst_withFlags fun c => ?_)
  rw [withFlags_reg]
  by_cases aligned : (s.reg ra + c).toNat % 8 ≠ 0
  · rw [if_pos aligned, if_pos aligned]
    exact raise_withFlags ..
  · rw [if_neg aligned, if_neg aligned]
    refine memRead_withFlags fun old => ?_
    rw [withFlags_reg]
    by_cases swap : old = s.reg rb
    · rw [if_pos swap, if_pos swap]
      exact memWrite_withFlags fun _ => next_result_withFlags ..
    · rw [if_neg swap, if_neg swap]
      exact next_result_withFlags ..

theorem execTrapv_withFlags : execTrapv (s.withFlags fs) = Out.withFlags fs (execTrapv s) := by
  unfold execTrapv
  rw [withFlags_tpfx]
  cases s.tpfx <;> rfl

theorem immPrefixOp_withFlags (p : ImmPrefix) (len : Word) :
    immPrefixOp p len (s.withFlags fs) = Out.withFlags fs (immPrefixOp p len s) := by
  unfold immPrefixOp
  rw [withFlags_ipfx]
  cases s.ipfx <;> rfl

end

/-! ### The instructions -/

/-- An instruction that writes no flag register commutes with replacing the flag registers it does not read (R45). -/
theorem exec_withFlags {i : Instr} {s : State} {fs : Vector (BitVec 4) 8} (writes : flagTarget i = none)
    (reads : ∀ j, flagSource i = some j → (s.withFlags fs).flag j = s.flag j) :
    exec i (s.withFlags fs) = Out.withFlags fs (exec i s) := by
  -- `exec` is unfolded by hand only where the shared operation takes a comparison as its argument.
  cases i
  case tst | cmpi | cmp => nomatch writes
  case beq fa _ | bne fa _ | bvs fa _ | bvc fa _ | bmi fa _ | bpl fa _ | bra fa _ | bnv fa _
      | bgt fa _ | ble fa _ | bge fa _ | blt fa _ | bhi fa _ | bls fa _ | bhs fa _ | blo fa _ =>
    exact shortBranch_withFlags _ _ (reads fa rfl)
  case lbeq fa _ | lbne fa _ | lbvs fa _ | lbvc fa _ | lbmi fa _ | lbpl fa _ | lbra fa _ | lbnv fa _
      | lbgt fa _ | lble fa _ | lbge fa _ | lblt fa _ | lbhi fa _ | lbls fa _ | lbhs fa _ | lblo fa _ =>
    exact longBranch_withFlags _ _ (reads fa rfl)
  case sxb | sxc | sxh => exact signExtendOp_withFlags ..
  case andR => exact execAndR_withFlags ..
  case shlR | rolR | shrR | rorR | asrR => exact shiftReg_withFlags ..
  case shlI | rolI | shrI | rorI | asrI => exact shiftImm_withFlags ..
  case addR => exact noImmPrefix_withFlags (addOp_withFlags ..)
  case addI => exact withConst_withFlags fun _ => addOp_withFlags ..
  case subI | mulI | muluI | andI | orI | eorI | seqI | sneI | sgtI | sleI | sgeI | sltI | shiI | slsI | shsI | sloI =>
    dsimp only [exec]
    exact riOp_withFlags ..
  case divI | remI | divuI | remuI => exact divOp_withFlags ..
  case jalr | jalr24 => exact jumpAndLink_withFlags ..
  case ret => exact noPrefixes_next_withFlags rfl
  case brz | brnz | brmi | brpl =>
    dsimp only [exec]
    exact regBranch_withFlags ..
  case dbnz => exact execDbnz_withFlags ..
  case lb | lc | lh | lw => exact withDisp_withFlags (loadSigned_withFlags _ _)
  case lbu | lcu | lhu => exact withDisp_withFlags (loadUnsigned_withFlags _ _)
  case lea => exact withDisp_withFlags (loadAddress_withFlags _)
  case lbx | lcx | lhx | lwx => exact withIndex_withFlags (loadSigned_withFlags _ _)
  case lbux | lcux | lhux => exact withIndex_withFlags (loadUnsigned_withFlags _ _)
  case leax => exact withIndex_withFlags (loadAddress_withFlags _)
  case sb | sc | sh | sw => exact withDisp_withFlags (store_withFlags _ _)
  case sbx | scx | shx | swx => exact withIndex_withFlags (store_withFlags _ _)
  case push => exact execPush_withFlags ..
  case pushc => exact execPushc_withFlags ..
  case pop => exact execPop_withFlags ..
  case cas => exact execCas_withFlags ..
  case brk => exact noPrefixes_withFlags (raise_withFlags ..)
  case nop | cli => exact noPrefixes_next_withFlags rfl
  case cinv | sws | cinvx => exact noPrefixes_withFlags rfl
  case trapv => exact execTrapv_withFlags
  case imm8 | imm16 | imm24 | imm32 | imm40 | imm48 | imm56 | imm64 => exact immPrefixOp_withFlags ..

/-- An instruction that is no writer of a flag register leaves the flag registers as they are: `exec_withFlags` at the flag
registers the state holds. -/
theorem exec_flags_of_flagTarget_none {i : Instr} {s t : State} (writes : flagTarget i = none)
    (h : exec i s = .next t) : t.flags = s.flags := by
  have same : exec i s = Out.withFlags s.flags (exec i s) := exec_withFlags (fs := s.flags) writes fun _ _ => rfl
  rw [h] at same
  have e : t = t.withFlags s.flags := Host.Outcome.next.inj same
  exact (congrArg State.flags e).trans (withFlags_flags t s.flags)

/-- The check for pending prefixes depends on the state alone: it goes on with whatever comes after it, or refuses it with
one reason. -/
theorem noPrefixes_uniform (s : State) : (∀ k, noPrefixes s k = k) ∨ ∃ r, ∀ k, noPrefixes s k = .refused r := by
  unfold noPrefixes noImmPrefix noTrapv
  cases s.ipfx with
  | some p => exact .inr ⟨_, fun _ => rfl⟩
  | none =>
    cases s.tpfx with
    | true => exact .inr ⟨_, fun _ => rfl⟩
    | false => exact .inl fun _ => rfl

/-- The writers of a flag register: whatever the flag registers held, they write the same value to the one they name, or
refuse with the same reason (R45). -/
theorem exec_of_flagTarget {i : Instr} {ft : FlagNum} (h : flagTarget i = some ft) (s : State) :
    (∃ v len, ∀ fs, exec i (s.withFlags fs) = .next (((s.withFlags fs).setFlag ft v).finish len)) ∨
    ∃ r, ∀ fs, exec i (s.withFlags fs) = .refused r := by
  have compare : ∃ a b len, ∀ fs, exec i (s.withFlags fs) = compareOp ft a b len (s.withFlags fs) := by
    cases i
    case tst ft ra => cases h; exact ⟨s.reg ra, 0#64, 2#64, fun _ => rfl⟩
    case cmpi ft ra imm => cases h; exact ⟨s.reg ra, imm.signExtend 64, 3#64, fun _ => rfl⟩
    case cmp ft ra rb => cases h; exact ⟨s.reg ra, s.reg rb, 3#64, fun _ => rfl⟩
    all_goals nomatch h
  obtain ⟨a, b, len, e⟩ := compare
  rcases noPrefixes_uniform s with go | ⟨r, stop⟩
  · exact .inl ⟨flagsSub a b, len, fun fs => (e fs).trans (go _)⟩
  · exact .inr ⟨r, fun fs => (e fs).trans (stop _)⟩

/-! ### The statement -/

/-- No instruction writes a flag register but the one it names as its target. -/
theorem flag_eq_of_not_flagTarget {i : Instr} {s t : State} {j : FlagNum} (h : exec i s = .next t)
    (hj : flagTarget i ≠ some j) : t.flag j = s.flag j := by
  cases ht : flagTarget i with
  | none => exact flag_congr (exec_flags_of_flagTarget_none ht h) j
  | some ft =>
    have ne : j ≠ ft := fun e => hj (e ▸ ht)
    rcases exec_of_flagTarget ht s with ⟨v, len, e⟩ | ⟨r, e⟩
    · cases h.symm.trans (e s.flags)
      simp [flag_setFlag, ne]
    · nomatch h.symm.trans (e s.flags)

/-- What a writer leaves in its target does not depend on what the flag registers held. -/
theorem flag_of_flagTarget_indep {i : Instr} {s t t' : State} {fs : Vector (BitVec 4) 8} {j : FlagNum}
    (h : exec i s = .next t) (h' : exec i (s.withFlags fs) = .next t') (hj : flagTarget i = some j) :
    t'.flag j = t.flag j := by
  rcases exec_of_flagTarget hj s with ⟨v, len, e⟩ | ⟨r, e⟩
  · cases h.symm.trans (e s.flags)
    cases h'.symm.trans (e fs)
    simp [flag_setFlag]
  · nomatch h.symm.trans (e s.flags)

/-- The outcome in the other state is the same one, up to the flag registers a next state holds. -/
theorem exec_withFlags_cases (i : Instr) {s : State} {fs : Vector (BitVec 4) 8}
    (reads : ∀ j, flagSource i = some j → (s.withFlags fs).flag j = s.flag j) :
    (∃ t gs, exec i s = .next t ∧ exec i (s.withFlags fs) = .next (t.withFlags gs)) ∨
    (∃ e info u, exec i s = .fault (.trapped e info u) ∧
      exec i (s.withFlags fs) = .fault (.trapped e info (u.withFlags fs))) ∨
    ∃ r, exec i s = .refused r ∧ exec i (s.withFlags fs) = .refused r := by
  cases ht : flagTarget i with
  | none =>
    rw [exec_withFlags ht reads]
    match exec i s with
    | .next t => exact .inl ⟨t, fs, rfl, rfl⟩
    | .fault (.trapped e info u) => exact .inr (.inl ⟨e, info, u, rfl, rfl⟩)
    | .refused r => exact .inr (.inr ⟨r, rfl, rfl⟩)
  | some ft =>
    rcases exec_of_flagTarget ht s with ⟨v, len, e⟩ | ⟨r, e⟩
    · exact .inl ⟨_, _, e s.flags, e fs⟩
    · exact .inr (.inr ⟨r, e s.flags, e fs⟩)

/-- Settles O13: the three clauses are `flag_eq_of_not_flagTarget`, `flag_of_flagTarget_indep` and
`exec_withFlags_cases`. -/
theorem flagRegisterUse : Obligations.FlagRegisterUse := by
  refine ⟨fun _ _ _ _ => flag_eq_of_not_flagTarget, fun _ _ _ _ _ _ => flag_of_flagTarget_indep, fun i s fs reads => ?_⟩
  rcases exec_withFlags_cases i reads with ⟨t, gs, h, h'⟩ | ⟨e, info, u, h, h'⟩ | ⟨r, h, h'⟩ <;> rw [h]
  · refine ⟨fun _ next => ?_, nofun, nofun⟩
    cases next
    exact ⟨_, h', rfl⟩
  · refine ⟨nofun, nofun, fun _ _ _ trapped => ?_⟩
    cases trapped
    exact h'
  · refine ⟨nofun, fun _ refused => ?_, nofun⟩
    cases refused
    exact h'

end Sys2Proof.Machine

namespace Sys2Proof.Machine

/-! ### Instructions that refuse pending prefixes -/

/-- A meaning that checks for pending prefixes first, whatever comes after the check, is refused where one is pending (R60). -/
theorem refusesPrefixes_of_noPrefixes {i : Instr} {k : State → Out} (h : ∀ s, exec i s = noPrefixes s (k s)) :
    RefusesPrefixes i := by
  intro s pending
  rw [h]
  rcases noPrefixes_cases s (k s) with ⟨hipfx, htpfx, _⟩ | ⟨_, refused⟩
  · exact absurd ⟨hipfx, htpfx⟩ pending
  · exact refused

/-- The frame of a register write holds for the value `t` has in `rt`, also where `rt` is R0 and the write was dropped (R32). -/
theorem OnlyReg.self {rt : RegNum} {v pc : Word} {s t : State} (h : OnlyReg rt v pc s t) :
    OnlyReg rt (t.reg rt) pc s t :=
  { h with regs := ⟨h.regs.1, fun _ => rfl⟩ }

/-- An instruction that refuses pending prefixes and whose one effect is to write a general register, its result bit by
bit. -/
theorem completes_result_bits {s : State} {rt : RegNum} {v len : Word} {bit : Nat → Bool} (h : NoPrefix s)
    (hv : ∀ k < 64, v.getLsbD k = bit k) :
    Completes (noPrefixes s (.next (s.result rt v len))) fun t =>
      OnlyReg rt (t.reg rt) (s.pc + len) s t ∧ (rt ≠ 0#8 → ∀ k < 64, (t.reg rt).getLsbD k = bit k) := by
  obtain ⟨hipfx, htpfx⟩ := h
  rw [noPrefixes_of_none _ hipfx htpfx]
  have frame := onlyReg_result s rt v len
  obtain ⟨_, written⟩ := frame.regs
  refine completes_next ⟨frame.self, fun hrt => ?_⟩
  rw [written hrt]
  exact hv

/-! ### Sign extensions -/

/-- The low `n + 1` bits of a word, sign-extended: bit `k` is bit `k` of the word up to bit `n`, the sign, and bit `n` above
it. -/
theorem getLsbD_signExtend_low (x : Word) (n k : Nat) (hk : k < 64) :
    ((x.extractLsb' 0 (n + 1)).signExtend 64).getLsbD k = x.getLsbD (min k n) := by
  rw [BitVec.getLsbD_signExtend, decide_eq_true hk, Bool.true_and]
  split
  next low => simp [low, Nat.min_eq_left (Nat.le_of_lt_succ low)]
  next high => simp [BitVec.msb_eq_getLsbD_last, Nat.min_eq_right (Nat.le_of_succ_le (Nat.not_lt.1 high))]

/-- What the three sign extensions share, for the sign bit `n`. -/
theorem signExtendOp_completes {s : State} (n : Nat) (rt ra : RegNum) (h : NoPrefix s) :
    Completes (signExtendOp (n + 1) rt ra s) fun t => OnlyReg rt (t.reg rt) (s.pc + 4#64) s t ∧
      (rt ≠ 0#8 → ∀ k < 64, (t.reg rt).getLsbD k = (s.reg ra).getLsbD (min k n)) :=
  completes_result_bits h (getLsbD_signExtend_low (s.reg ra) n)

/-- Settles O27: the results are `signExtendOp_completes` at the sign bits 7, 15 and 31. -/
theorem signExtensions : Obligations.SignExtensions := by
  intro rt ra
  refine ⟨⟨?sxbBytes, ?sxcBytes, ?sxhBytes⟩, ⟨?sxbRefuses, ?sxcRefuses, ?sxhRefuses⟩, fun s h => ?results⟩
  case sxbBytes | sxcBytes | sxhBytes => exact fun _ => rfl
  case sxbRefuses | sxcRefuses | sxhRefuses => exact refusesPrefixes_of_noPrefixes fun _ => rfl
  case results =>
    exact ⟨signExtendOp_completes 7 rt ra h, signExtendOp_completes 15 rt ra h, signExtendOp_completes 31 rt ra h⟩

/-! ### AND of two registers -/

/-- Settles O28: bit `k` of the conjunction is the conjunction of the bits `k` (`BitVec.getLsbD_and`). -/
theorem andRegisters : Obligations.AndRegisters := by
  intro rt ra rb
  refine ⟨fun _ => rfl, refusesPrefixes_of_noPrefixes fun _ => rfl, fun s h => ?_⟩
  exact completes_result_bits h fun _ _ => BitVec.getLsbD_and

end Sys2Proof.Machine

namespace Sys2Proof.Machine

/-! ### The bits of a shifted and of a rotated word

For a bit `k` of the result, and an amount `n` below 64 where the word is rotated. -/

/-- The bits below the amount are zeros that entered at the bottom (R291). -/
theorem getLsbD_shl (x : Word) (n k : Nat) (hk : k < 64) :
    (shl x n).getLsbD k = if k < n then false else x.getLsbD (k - n) := by
  unfold shl
  rw [BitVec.getLsbD_shiftLeft]
  split
  next entered => simp [entered]
  next shifted => simp [shifted, hk]

/-- The bits from `64 - n` up are zeros that entered at the top (R295): the word has no bits to put there. -/
theorem getLsbD_shr (x : Word) (n k : Nat) :
    (shr x n).getLsbD k = if k + n < 64 then x.getLsbD (k + n) else false := by
  unfold shr
  rw [BitVec.getLsbD_ushiftRight, Nat.add_comm n k]
  split
  next => rfl
  next entered => exact BitVec.getLsbD_of_ge _ _ (Nat.not_lt.1 entered)

/-- The bits from `64 - n` up are copies of bit 63, the sign (R299). -/
theorem getLsbD_asr (x : Word) (n k : Nat) (hk : k < 64) :
    (asr x n).getLsbD k = if k + n < 64 then x.getLsbD (k + n) else x.getLsbD 63 := by
  unfold asr
  rw [BitVec.getLsbD_sshiftRight, decide_eq_false (Nat.not_le.2 hk), BitVec.msb_eq_getLsbD_last, Nat.add_comm n k]
  rfl

/-- The two shifts a rotation left joins have no bit in common: below the amount `x >>> (64 - n)` holds the bits that came
round, from it up `x <<< n` holds the others (R293). -/
theorem getLsbD_rol (x : Word) (n k : Nat) (hn : n < 64) (hk : k < 64) :
    (rol x n).getLsbD k = x.getLsbD ((k + 64 - n) % 64) := by
  unfold rol
  rw [BitVec.getLsbD_or, BitVec.getLsbD_shiftLeft, BitVec.getLsbD_ushiftRight]
  by_cases round : k < n
  · have index : (k + 64 - n) % 64 = 64 - n + k := by omega
    simp [round, index]
  · have index : (k + 64 - n) % 64 = k - n := by omega
    have shiftedOut : x.getLsbD (64 - n + k) = false := BitVec.getLsbD_of_ge _ _ (by omega)
    simp [round, index, shiftedOut, hk]

/-- As in `getLsbD_rol`: below `64 - n` the bits are those of `x >>> n`, from there up those that came round (R297). -/
theorem getLsbD_ror (x : Word) (n k : Nat) (hn : n < 64) (hk : k < 64) :
    (ror x n).getLsbD k = x.getLsbD ((k + n) % 64) := by
  unfold ror
  rw [BitVec.getLsbD_or, BitVec.getLsbD_ushiftRight, BitVec.getLsbD_shiftLeft]
  by_cases round : 64 - n ≤ k
  · have index : (k + n) % 64 = k - (64 - n) := by omega
    have shiftedOut : x.getLsbD (n + k) = false := BitVec.getLsbD_of_ge _ _ (by omega)
    simp [Nat.not_lt.2 round, index, shiftedOut, hk]
  · have index : (k + n) % 64 = n + k := by omega
    simp [Nat.not_le.1 round, index]

/-! ### The immediate shifts and rotates -/

/-- Imm6 below two zero bits is a third byte format RRI6 admits, and it decodes to Imm6 (R135, R145). -/
theorem decodeImm6_append (imm : BitVec 6) (mk : BitVec 6 → Instr) (rest : List Byte) :
    decodeImm6 (0#2 ++ imm) mk rest = .ok (mk imm, rest) := by
  unfold decodeImm6
  rw [if_pos BitVec.extractLsb'_append_eq_left, BitVec.extractLsb'_append_eq_right]

/-- What the five immediate forms share, for the bits of the word their function of x[Ra] and Imm6 gives. -/
theorem shiftImm_completes {s : State} {f : Word → Nat → Word} {bit : Nat → Bool} (rt ra : RegNum) (imm : BitVec 6)
    (h : NoPrefix s) (hf : ∀ k < 64, (f (s.reg ra) imm.toNat).getLsbD k = bit k) :
    Completes (shiftImm f rt ra imm s) fun t => OnlyReg rt (t.reg rt) (s.pc + 5#64) s t ∧
      (rt ≠ 0#8 → ∀ k < 64, (t.reg rt).getLsbD k = bit k) :=
  completes_result_bits h hf

/-- Settles O35: the bytes are `decodeImm6_append` at the five function codes, the results `shiftImm_completes` with the bits of
the five functions. -/
theorem shiftImmediates : Obligations.ShiftImmediates := by
  intro rt ra imm
  have amount : imm.toNat < 64 := imm.isLt
  refine ⟨⟨?shlBytes, ?rolBytes, ?shrBytes, ?rorBytes, ?asrBytes⟩, fun s h => ⟨?shl, ?rol, ?shr, ?ror, ?asr⟩⟩
  case shlBytes | rolBytes | shrBytes | rorBytes | asrBytes => exact decodeImm6_append imm _
  case shl => exact shiftImm_completes rt ra imm h (getLsbD_shl (s.reg ra) imm.toNat)
  case rol => exact shiftImm_completes rt ra imm h fun k => getLsbD_rol (s.reg ra) imm.toNat k amount
  case shr => exact shiftImm_completes rt ra imm h fun k _ => getLsbD_shr (s.reg ra) imm.toNat k
  case ror => exact shiftImm_completes rt ra imm h fun k => getLsbD_ror (s.reg ra) imm.toNat k amount
  case asr => exact shiftImm_completes rt ra imm h (getLsbD_asr (s.reg ra) imm.toNat)

end Sys2Proof.Machine

namespace Sys2Proof.Machine

/-! ### What holds in whatever next state there is

A property of every next state passes through the checks for pending prefixes, the operand forms and the accesses to memory:
where one of them stops the instruction by a refusal there is no next state, and where it raises, the next state is the one in
which a handler begins. -/

/-- Every next state of the outcome has the property; an outcome without one has it trivially. -/
def AllNext (P : State → Prop) : Out → Prop
  | .next t => P t
  | .fault _ | .refused _ => True

section
variable {P : State → Prop} {s t : State}

theorem allNext_next (h : P t) : AllNext P (.next t) := h

theorem allNext_refused (r : Refusal) : AllNext P (.refused r) := trivial

theorem AllNext.of_eq_next {o : Out} (h : AllNext P o) (e : o = .next t) : P t := by
  rw [e] at h
  exact h

theorem allNext_raise {e : Exn} {info : Word} (h : ∀ pc, P { s.enterException with pc := pc }) :
    AllNext P (raise e info s) := by
  rcases raise_cases e info s with ⟨_, terminal⟩ | ⟨_, handler⟩
  · rw [terminal]; trivial
  · rw [handler]; exact allNext_next (h _)

theorem allNext_noImmPrefix {k : Out} (h : AllNext P k) : AllNext P (noImmPrefix s k) := by
  rcases noImmPrefix_cases s k with ⟨_, e⟩ | ⟨_, e⟩ <;> rw [e]
  · exact h
  · exact allNext_refused _

theorem allNext_noTrapv {k : Out} (h : AllNext P k) : AllNext P (noTrapv s k) := by
  rcases noTrapv_cases s k with ⟨_, e⟩ | ⟨_, e⟩ <;> rw [e]
  · exact h
  · exact allNext_refused _

theorem allNext_noPrefixes {k : Out} (h : AllNext P k) : AllNext P (noPrefixes s k) :=
  allNext_noImmPrefix (allNext_noTrapv h)

/-- An instruction that accepts no IMMn or TRAPV before it and ends in one next state. -/
theorem allNext_noPrefixes_next (h : P t) : AllNext P (noPrefixes s (.next t)) :=
  allNext_noPrefixes (allNext_next h)

theorem allNext_withConst {w : Nat} {f : BitVec w} {k : Word → Out} (h : ∀ c, AllNext P (k c)) :
    AllNext P (withConst f s k) := by
  rcases withConst_cases f s k with ⟨c, _, e⟩ | ⟨_, e⟩ <;> rw [e]
  · exact h c
  · exact allNext_refused _

theorem allNext_withDisp {ra : RegNum} {disp : BitVec 8} {k : Word → Out} (h : ∀ ea, AllNext P (k ea)) :
    AllNext P (withDisp ra disp s k) :=
  allNext_noTrapv (allNext_withConst fun _ => h _)

theorem allNext_withIndex {ra rb : RegNum} {k : Word → Out} (h : ∀ ea, AllNext P (k ea)) :
    AllNext P (withIndex ra rb s k) :=
  allNext_noTrapv (allNext_withConst fun _ => h _)

theorem allNext_memRead {a : Word} {n : Nat} {k : BitVec (8 * n) → Out}
    (stop : ∀ e, AllNext P (raise e a s)) (go : ∀ v, AllNext P (k v)) : AllNext P (memRead s a n k) := by
  rcases memRead_cases s a n k with ⟨_, e⟩ | ⟨_, _, e⟩ <;> rw [e]
  · exact go _
  · exact stop _

theorem allNext_memWrite {a : Word} {n : Nat} {v : BitVec (8 * n)} {k : State → Out}
    (stop : ∀ e, AllNext P (raise e a s)) (go : ∀ m, AllNext P (k { s with mem := m })) :
    AllNext P (memWrite s a n v k) := by
  rcases memWrite_cases s a n v k with ⟨_, _, e⟩ | ⟨_, _, e⟩ | ⟨_, _, e⟩ <;> rw [e]
  · exact go _
  · exact allNext_refused _
  · exact stop _

end

/-! ### The status register -/

/-- The outcome leaves SR as it is, if the machine goes on. -/
abbrev KeepsSr (s : State) (o : Out) : Prop := AllNext (fun t => t.sr = s.sr) o

section
variable {s : State}

@[simp] theorem setSp_sr (v : Word) : (s.setSp v).sr = s.sr := by simp [State.setSp]
@[simp] theorem result_sr (rt : RegNum) (v len : Word) : (s.result rt v len).sr = s.sr := by simp [State.result]

/-- Exception entry does not write SR (R525; log entry 6). -/
theorem keepsSr_raise (e : Exn) (info : Word) : KeepsSr s (raise e info s) := allNext_raise fun _ => enterException_sr s

theorem keepsSr_memRead {a : Word} {n : Nat} {k : BitVec (8 * n) → Out} (h : ∀ v, KeepsSr s (k v)) :
    KeepsSr s (memRead s a n k) := allNext_memRead (fun e => keepsSr_raise e a) h

theorem keepsSr_memWrite {a : Word} {n : Nat} {v : BitVec (8 * n)} {k : State → Out}
    (h : ∀ m, KeepsSr s (k { s with mem := m })) : KeepsSr s (memWrite s a n v k) :=
  allNext_memWrite (fun e => keepsSr_raise e a) h

/-- Writing a general register and going on. -/
theorem keepsSr_next_result (rt : RegNum) (v len : Word) : KeepsSr s (.next (s.result rt v len)) :=
  allNext_next (result_sr rt v len)

theorem addOp_keepsSr (rt : RegNum) (a b len : Word) : KeepsSr s (addOp rt a b len s) := by
  rcases addOp_cases rt a b len s with ⟨_, _, e⟩ | ⟨_, e⟩ <;> rw [e]
  · exact keepsSr_raise _ _
  · exact keepsSr_next_result ..

theorem riOp_keepsSr (f : Word → Word → Word) (rt ra : RegNum) (imm : BitVec 8) : KeepsSr s (riOp f rt ra imm s) :=
  allNext_noTrapv (allNext_withConst fun _ => keepsSr_next_result ..)

theorem divOp_keepsSr (corner : Word → Word → Bool) (f : Word → Word → Word) (rt ra : RegNum) (imm : BitVec 8) :
    KeepsSr s (divOp corner f rt ra imm s) := by
  rcases divOp_cases corner f rt ra imm s with ⟨_, _, _, _, e⟩ | ⟨_, e⟩ <;> rw [e]
  · exact keepsSr_next_result ..
  · exact allNext_refused _

theorem loadSigned_keepsSr (n : Nat) (rt : RegNum) (ea : Word) : KeepsSr s (loadSigned n rt s ea) :=
  keepsSr_memRead fun _ => keepsSr_next_result ..

theorem loadUnsigned_keepsSr (n : Nat) (rt : RegNum) (ea : Word) : KeepsSr s (loadUnsigned n rt s ea) :=
  keepsSr_memRead fun _ => keepsSr_next_result ..

theorem store_keepsSr (n : Nat) (rs : RegNum) (ea : Word) : KeepsSr s (store n rs s ea) :=
  keepsSr_memWrite fun _ => allNext_next rfl

theorem pushWord_keepsSr (v len : Word) : KeepsSr s (pushWord v len s) :=
  keepsSr_memWrite fun _ => allNext_next (by simp)

theorem execPush_keepsSr (ra : RegNum) : KeepsSr s (execPush ra s) := by
  refine allNext_noPrefixes ?_
  split
  next ofSp => exact allNext_refused _
  next => exact pushWord_keepsSr ..

theorem execPop_keepsSr (rt : RegNum) : KeepsSr s (execPop rt s) := by
  refine allNext_noPrefixes ?_
  split
  next ofSp => exact allNext_refused _
  next =>
    split
    next intoR0 => exact allNext_next (by simp)
    next => exact keepsSr_memRead fun _ => allNext_next (by simp)

theorem execCas_keepsSr (rt rb rc ra : RegNum) : KeepsSr s (execCas rt rb rc ra s) := by
  refine allNext_noTrapv (allNext_withConst fun c => ?_)
  split
  next misaligned => exact keepsSr_raise ..
  next =>
    refine keepsSr_memRead fun old => ?_
    split
    next swap => exact keepsSr_memWrite fun _ => allNext_next (by simp)
    next => exact keepsSr_next_result ..

theorem execTrapv_keepsSr : KeepsSr s (execTrapv s) := by
  unfold execTrapv
  split
  next second => exact allNext_refused _
  next => exact allNext_next rfl

theorem immPrefixOp_keepsSr (p : ImmPrefix) (len : Word) : KeepsSr s (immPrefixOp p len s) := by
  rcases immPrefixOp_cases p len s with ⟨_, e⟩ | ⟨_, e⟩ <;> rw [e]
  · exact allNext_next rfl
  · exact allNext_refused _

end

/-- CLI is the only instruction that writes SR (R46, R482). -/
theorem exec_keepsSr {i : Instr} (s : State) (hi : i ≠ .cli) : KeepsSr s (exec i s) := by
  -- `exec` is unfolded by hand only where the shared operation takes a function as its argument.
  cases i
  case cli => exact absurd rfl hi
  case tst | cmpi | cmp | nop | ret => exact allNext_noPrefixes_next rfl
  case sxb | sxc | sxh | andR => exact allNext_noPrefixes_next (result_sr ..)
  case shlR | rolR | shrR | rorR | asrR | shlI | rolI | shrI | rorI | asrI =>
    exact allNext_noPrefixes_next (result_sr ..)
  case beq | bne | bvs | bvc | bmi | bpl | bra | bnv | bgt | ble | bge | blt | bhi | bls | bhs | blo =>
    exact allNext_noPrefixes_next rfl
  case lbeq | lbne | lbvs | lbvc | lbmi | lbpl | lbra | lbnv | lbgt | lble | lbge | lblt | lbhi | lbls | lbhs | lblo =>
    exact allNext_noPrefixes_next rfl
  case brz | brnz | brmi | brpl => exact allNext_noPrefixes_next rfl
  case dbnz => exact allNext_noPrefixes_next (setReg_sr ..)
  case jalr | jalr24 => exact allNext_noPrefixes_next (setCa_sr ..)
  case brk => exact allNext_noPrefixes (keepsSr_raise ..)
  case cinv | sws | cinvx => exact allNext_noPrefixes (allNext_refused _)
  case addR => exact allNext_noImmPrefix (addOp_keepsSr ..)
  case addI => exact allNext_withConst fun _ => addOp_keepsSr ..
  case subI | mulI | muluI | andI | orI | eorI | seqI | sneI | sgtI | sleI | sgeI | sltI | shiI | slsI | shsI | sloI =>
    dsimp only [exec]
    exact riOp_keepsSr ..
  case divI | remI | divuI | remuI => exact divOp_keepsSr ..
  case lb | lc | lh | lw => exact allNext_withDisp (loadSigned_keepsSr _ _)
  case lbu | lcu | lhu => exact allNext_withDisp (loadUnsigned_keepsSr _ _)
  case lea => exact allNext_withDisp fun _ => keepsSr_next_result ..
  case lbx | lcx | lhx | lwx => exact allNext_withIndex (loadSigned_keepsSr _ _)
  case lbux | lcux | lhux => exact allNext_withIndex (loadUnsigned_keepsSr _ _)
  case leax => exact allNext_withIndex fun _ => keepsSr_next_result ..
  case sb | sc | sh | sw => exact allNext_withDisp (store_keepsSr _ _)
  case sbx | scx | shx | swx => exact allNext_withIndex (store_keepsSr _ _)
  case push => exact execPush_keepsSr ..
  case pushc => exact allNext_noTrapv (allNext_withConst fun _ => pushWord_keepsSr ..)
  case pop => exact execPop_keepsSr ..
  case cas => exact execCas_keepsSr ..
  case trapv => exact execTrapv_keepsSr
  case imm8 | imm16 | imm24 | imm32 | imm40 | imm48 | imm56 | imm64 => exact immPrefixOp_keepsSr ..

/-! ### The interrupt a step takes -/

/-- A source of the launch that IM does not hold off is admitted, and no other is (R530, R531). -/
theorem admitsIrq_iff (s : State) (src : IrqSource) :
    s.admitsIrq src = true ↔ src ∈ s.launch.irqSources ∧ (src.maskable = true → s.im = false) := by
  unfold State.admitsIrq
  cases src.maskable <;> simp

/-- With no IMMn and no TRAPV pending a step takes an interrupt exactly if some pending input is admitted (R60 step 1). -/
theorem irqToTake_isSome_iff {s : State} (h : NoPrefix s) :
    s.irqToTake.isSome = true ↔ ∃ src ∈ s.irqPending, s.admitsIrq src = true := by
  obtain ⟨hipfx, htpfx⟩ := h
  simp [State.irqToTake, hipfx, htpfx, List.find?_isSome]

/-! ### NOP -/

/-- Settles O54: the meaning of NOP is the check for pending prefixes and then the move to the next byte (`onlyPc_jump`). -/
theorem noOperation : Obligations.NoOperation := by
  refine ⟨fun _ => rfl, refusesPrefixes_of_noPrefixes fun _ => rfl, fun s ⟨hipfx, htpfx⟩ => ?_⟩
  have runs : exec .nop s = .next (s.finish 1#64) := noPrefixes_of_none _ hipfx htpfx
  rw [runs]
  exact completes_next (onlyPc_jump s (s.pc + 1#64))

/-! ### CLI -/

/-- The state in which CLI ends. -/
def State.afterCli (s : State) : State := State.finish { s with sr := s.sr &&& 0xFFFF7FFF#32 } 1#64

/-- CLI ends in `State.afterCli`, or is refused. -/
theorem exec_cli_cases (s : State) :
    (s.ipfx = none ∧ s.tpfx = false ∧ exec .cli s = .next s.afterCli) ∨ ∃ r, exec .cli s = .refused r :=
  noPrefixes_next_cases s s.afterCli

/-- Bit 15 is the one bit the mask of CLI does not have. -/
theorem getLsbD_afterCli_sr (s : State) (k : Nat) (hk : k < 32) :
    s.afterCli.sr.getLsbD k = if k = 15 then false else s.sr.getLsbD k := by
  have mask : 0xFFFF7FFF#32 = ~~~BitVec.twoPow 32 15 := by decide
  change (s.sr &&& 0xFFFF7FFF#32).getLsbD k = _
  rw [mask, BitVec.getLsbD_and, BitVec.getLsbD_not, BitVec.getLsbD_twoPow]
  by_cases im : k = 15
  · simp [im]
  · simp [im, hk, Ne.symm im]

theorem afterCli_im (s : State) : s.afterCli.im = false := getLsbD_afterCli_sr s 15 (by decide)

/-- CLI moves on by its one byte. -/
theorem afterCli_endsAt (s : State) : EndsAt (s.pc + 1#64) s s.afterCli where
  pc := rfl
  ipfx := rfl
  tpfx := rfl
  irqPending := rfl
  launch := rfl

/-- With IM clear no source is held off: any pending input of the launch's sources has an interrupt taken next. -/
theorem afterCli_irqToTake {s : State} {src : IrqSource} (pending : src ∈ s.afterCli.irqPending)
    (source : src ∈ s.afterCli.launch.irqSources) : s.afterCli.irqToTake.isSome = true := by
  have admitted : s.afterCli.admitsIrq src = true := (admitsIrq_iff _ _).2 ⟨source, fun _ => afterCli_im s⟩
  exact (irqToTake_isSome_iff ⟨rfl, rfl⟩).2 ⟨src, pending, admitted⟩

/-- An instruction leaves IM clear where it is clear: CLI clears it and no other instruction writes SR. -/
theorem exec_im_eq_false {i : Instr} {s t : State} (h : exec i s = .next t) (him : s.im = false) : t.im = false := by
  by_cases hi : i = .cli
  · subst hi
    rcases exec_cli_cases s with ⟨_, _, runs⟩ | ⟨_, refused⟩
    · cases h.symm.trans runs
      exact afterCli_im s
    · nomatch h.symm.trans refused
  · have kept : t.sr = s.sr := (exec_keepsSr s hi).of_eq_next h
    rwa [State.im, kept]

/-- Settles O55: the state CLI ends in is `State.afterCli`, and the last clause is `exec_im_eq_false`. -/
theorem clearInterruptMask : Obligations.ClearInterruptMask := by
  refine ⟨fun _ => rfl, fun s ⟨hipfx, htpfx⟩ => ?_, fun _ _ _ => exec_im_eq_false⟩
  have runs : exec .cli s = .next s.afterCli := noPrefixes_of_none _ hipfx htpfx
  rw [runs]
  refine completes_next
    ⟨getLsbD_afterCli_sr s, ?regs, ?ca, ?flags, ?bytes, afterCli_endsAt s, fun _ => afterCli_irqToTake⟩
  case regs => exact reg_congr rfl
  case ca =>
    have same : s.afterCli.ca = s.ca := rfl
    exact fun c len hc => caReg_congr same len len c hc
  case flags => exact flag_congr rfl
  case bytes => exact fun _ => rfl

end Sys2Proof.Machine

namespace Sys2Proof.Machine

/-! ### Little-endian bytes -/

/-- The low byte below the low `n` bits of what stands above it. -/
theorem append_low_byte {w : Nat} (v : BitVec w) (n : Nat) :
    (v >>> 8).extractLsb' 0 n ++ v.extractLsb' 0 8 = v.extractLsb' 0 (n + 8) := by
  apply BitVec.eq_of_getLsbD_eq
  intro k hk
  rw [BitVec.getLsbD_append]
  by_cases low : k < 8
  · simp [low, hk]
  · have shifted : 8 + (k - 8) = k := by omega
    have above : k - 8 < n := by omega
    simp [low, hk, shifted, above]

/-- The bytes of a number depend on its bits alone, not on its width. -/
theorem bytesLE_congr {v w : Nat} {x : BitVec v} {y : BitVec w} (n : Nat)
    (h : ∀ k, x.getLsbD k = y.getLsbD k) : bytesLE n x = bytesLE n y := by
  induction n generalizing x y with
  | zero => rfl
  | succ n ih =>
    have byte : x.extractLsb' 0 8 = y.extractLsb' 0 8 := by
      apply BitVec.eq_of_getLsbD_eq
      intro k hk
      simp [h]
    have above : ∀ k, (x >>> 8).getLsbD k = (y >>> 8).getLsbD k := fun k => by simp [h]
    rw [bytesLE, bytesLE, byte, ih above]

/-- The bytes of a number above a byte: the byte first. -/
theorem bytesLE_append {w : Nat} (x : BitVec w) (b : Byte) (n : Nat) :
    bytesLE (n + 1) (x ++ b) = b :: bytesLE n x := by
  rw [bytesLE, BitVec.extractLsb'_append_eq_right, bytesLE_congr n]
  intro k
  simp [BitVec.getLsbD_append]

theorem bytesLE_one (b : Byte) : bytesLE 1 b = [b] := by simp [bytesLE]

/-! ### Decoding what was encoded -/

/-- First bytes 08h to 0Fh (R122, R129). -/
theorem decode_groupTST (ft : FlagNum) (rest : List Byte) : decode ((1#5 ++ ft) :: rest) = decodeTST ft rest := by
  unfold decode
  dsimp only
  rw [BitVec.extractLsb'_append_eq_left, BitVec.extractLsb'_append_eq_right]
  rfl

/-- First bytes 10h to 17h (R122, R129). -/
theorem decode_groupCMPI (ft : FlagNum) (rest : List Byte) : decode ((2#5 ++ ft) :: rest) = decodeCMPI ft rest := by
  unfold decode
  dsimp only
  rw [BitVec.extractLsb'_append_eq_left, BitVec.extractLsb'_append_eq_right]
  rfl

/-- First bytes 18h to 1Fh (R122, R129). -/
theorem decode_groupCMP (ft : FlagNum) (rest : List Byte) : decode ((3#5 ++ ft) :: rest) = decodeCMP ft rest := by
  unfold decode
  dsimp only
  rw [BitVec.extractLsb'_append_eq_left, BitVec.extractLsb'_append_eq_right]
  rfl

/-- `Disp5 : Fa` in one byte (R124). -/
theorem decodeBCC_append (mk : FlagNum → BitVec 5 → Instr) (fa : FlagNum) (disp : BitVec 5) (rest : List Byte) :
    decodeBCC mk ((disp ++ fa) :: rest) = .ok (mk fa disp, rest) := by
  unfold decodeBCC
  dsimp only
  rw [BitVec.extractLsb'_append_eq_left, BitVec.extractLsb'_append_eq_right]

/-- `Disp13 : Fa` in two bytes (R125). -/
theorem decodeLBCC_bytesLE (mk : FlagNum → BitVec 13 → Instr) (fa : FlagNum) (disp : BitVec 13) (rest : List Byte) :
    decodeLBCC mk (bytesLE 2 (disp ++ fa) ++ rest) = .ok (mk fa disp, rest) := by
  change decodeLBCC mk (_ :: _ :: rest) = _
  unfold decodeLBCC
  dsimp only
  rw [append_low_byte, BitVec.extractLsb'_eq_self, BitVec.extractLsb'_append_eq_left, BitVec.extractLsb'_append_eq_right]

/-- `Bs : Bd` in one byte (R127). -/
theorem decodeJALR_append (bd bs : CaNum) (rest : List Byte) :
    decodeJALR ((bs ++ bd) :: rest) = .ok (.jalr bd bs, rest) := by
  unfold decodeJALR
  dsimp only
  rw [BitVec.extractLsb'_append_eq_left, BitVec.extractLsb'_append_eq_right]

/-- `Bs : Bd` and three bytes of displacement (R128). -/
theorem decodeJALR24_bytesLE (bd bs : CaNum) (disp : BitVec 24) (rest : List Byte) :
    decodeJALR24 ((bs ++ bd) :: bytesLE 3 disp ++ rest) = .ok (.jalr24 bd bs disp, rest) := by
  change decodeJALR24 (_ :: _ :: _ :: _ :: rest) = _
  unfold decodeJALR24
  dsimp only
  rw [append_low_byte, append_low_byte, BitVec.extractLsb'_eq_self, BitVec.extractLsb'_append_eq_left,
    BitVec.extractLsb'_append_eq_right]

/-- Two bytes of a constant (R138). -/
theorem decodePUSHC_bytesLE (imm : BitVec 16) (rest : List Byte) :
    decodePUSHC (bytesLE 2 imm ++ rest) = .ok (.pushc imm, rest) := by
  change decodePUSHC (_ :: _ :: rest) = _
  unfold decodePUSHC
  dsimp only
  rw [append_low_byte, BitVec.extractLsb'_eq_self]

/-- Decode and encode agree, format by format: where a format packs fields of less than a byte or a number of several bytes the
lemma about the format says it; for the other formats both sides are the same bytes. -/
theorem encodes_encode (i : Instr) : Encodes (encode i) i := by
  intro rest
  cases i
  case tst ft _ => exact decode_groupTST ft _
  case cmpi ft _ _ => exact decode_groupCMPI ft _
  case cmp ft _ _ => exact decode_groupCMP ft _
  case shlI | rolI | shrI | rorI | asrI => exact decodeImm6_append _ _ rest
  case beq | bne | bvs | bvc | bmi | bpl | bra | bnv | bgt | ble | bge | blt | bhi | bls | bhs | blo =>
    exact decodeBCC_append _ _ _ rest
  case lbeq | lbne | lbvs | lbvc | lbmi | lbpl | lbra | lbnv | lbgt | lble | lbge | lblt | lbhi | lbls | lbhs | lblo =>
    exact decodeLBCC_bytesLE _ _ _ rest
  case jalr => exact decodeJALR_append _ _ rest
  case jalr24 => exact decodeJALR24_bytesLE _ _ _ rest
  case pushc => exact decodePUSHC_bytesLE _ rest
  case imm8 | imm16 | imm24 | imm32 | imm40 | imm48 | imm56 | imm64 =>
    change Except.ok (_, rest) = _
    simp only [append_low_byte, BitVec.extractLsb'_eq_self]
  all_goals rfl

end Sys2Proof.Machine

namespace Sys2Proof.Machine

/-! ### The formats: what bytes that decode encode to

For each format, the bytes after the opcode byte that its decoder reads: with the opcode byte `n` before them they are the
encoding of what it answers. -/

section
variable {op : Byte} {n : Nat} {bs rest : List Byte} {i : Instr}

theorem eq_ofNat_of_toNat_eq (hop : op.toNat = n) : op = BitVec.ofNat 8 n := by
  rw [← hop, BitVec.ofNat_toNat, BitVec.setWidth_eq]

theorem encode_of_ok {j : Instr} (hop : op.toNat = n) (enc : encode j = [BitVec.ofNat 8 n])
    (h : (.ok (j, bs) : Decoded) = .ok (i, rest)) : op :: bs = encode i ++ rest := by
  cases h
  rw [enc, eq_ofNat_of_toNat_eq hop]
  rfl

/-- Formats RI, LD and ST; formats LDX and STX read the same three bytes and hand them to the constructor in another order, so
that `decodeLDX` is `decodeRI` with another `mk`. -/
theorem encode_of_decodeRI {mk : RegNum → RegNum → BitVec 8 → Instr} (hop : op.toNat = n)
    (enc : ∀ rt ra imm, encode (mk rt ra imm) = [BitVec.ofNat 8 n, ra, rt, imm])
    (h : decodeRI mk bs = .ok (i, rest)) : op :: bs = encode i ++ rest := by
  unfold decodeRI at h
  split at h <;> cases h
  rw [enc, eq_ofNat_of_toNat_eq hop]
  rfl

theorem encode_of_decodeBR {mk : RegNum → BitVec 8 → Instr} (hop : op.toNat = n)
    (enc : ∀ ra disp, encode (mk ra disp) = [BitVec.ofNat 8 n, ra, disp])
    (h : decodeBR mk bs = .ok (i, rest)) : op :: bs = encode i ++ rest := by
  unfold decodeBR at h
  split at h <;> cases h
  rw [enc, eq_ofNat_of_toNat_eq hop]
  rfl

theorem encode_of_decodePUSH {mk : RegNum → Instr} (hop : op.toNat = n)
    (enc : ∀ r, encode (mk r) = [BitVec.ofNat 8 n, r])
    (h : decodePUSH mk bs = .ok (i, rest)) : op :: bs = encode i ++ rest := by
  unfold decodePUSH at h
  split at h <;> cases h
  rw [enc, eq_ofNat_of_toNat_eq hop]
  rfl

theorem encode_of_decodeCAS (hop : op.toNat = 0x97) (h : decodeCAS bs = .ok (i, rest)) : op :: bs = encode i ++ rest := by
  unfold decodeCAS at h
  split at h <;> cases h
  rw [eq_ofNat_of_toNat_eq hop]
  rfl

/-- The byte is `Disp5 : Fa`. -/
theorem encode_of_decodeBCC {mk : FlagNum → BitVec 5 → Instr} (hop : op.toNat = n)
    (enc : ∀ fa disp, encode (mk fa disp) = [BitVec.ofNat 8 n, disp ++ fa])
    (h : decodeBCC mk bs = .ok (i, rest)) : op :: bs = encode i ++ rest := by
  unfold decodeBCC at h
  split at h <;> cases h
  rw [enc, eq_ofNat_of_toNat_eq hop, BitVec.extractLsb'_append_extractLsb']
  rfl

/-- The two bytes are `Disp13 : Fa`. -/
theorem encode_of_decodeLBCC {mk : FlagNum → BitVec 13 → Instr} (hop : op.toNat = n)
    (enc : ∀ fa disp, encode (mk fa disp) = BitVec.ofNat 8 n :: bytesLE 2 (disp ++ fa))
    (h : decodeLBCC mk bs = .ok (i, rest)) : op :: bs = encode i ++ rest := by
  unfold decodeLBCC at h
  split at h <;> cases h
  rw [enc, eq_ofNat_of_toNat_eq hop, BitVec.extractLsb'_append_extractLsb', bytesLE_append, bytesLE_one]
  rfl

theorem encode_of_decodeJALR (hop : op.toNat = 0x60) (h : decodeJALR bs = .ok (i, rest)) :
    op :: bs = encode i ++ rest := by
  unfold decodeJALR at h
  split at h <;> cases h
  rw [encode, eq_ofNat_of_toNat_eq hop, BitVec.extractLsb'_append_extractLsb']
  rfl

theorem encode_of_decodeJALR24 (hop : op.toNat = 0x61) (h : decodeJALR24 bs = .ok (i, rest)) :
    op :: bs = encode i ++ rest := by
  unfold decodeJALR24 at h
  split at h <;> cases h
  rw [encode, eq_ofNat_of_toNat_eq hop, BitVec.extractLsb'_append_extractLsb', bytesLE_append, bytesLE_append, bytesLE_one]
  rfl

theorem encode_of_decodePUSHC (hop : op.toNat = 0xAD) (h : decodePUSHC bs = .ok (i, rest)) :
    op :: bs = encode i ++ rest := by
  unfold decodePUSHC at h
  split at h <;> cases h
  rw [encode, eq_ofNat_of_toNat_eq hop, bytesLE_append, bytesLE_one]
  rfl

theorem encode_of_decodeIMM {k : Nat} (hop : op.toNat = 0xF0 + k) (h : decodeIMM k bs = .ok (i, rest)) :
    op :: bs = encode i ++ rest := by
  unfold decodeIMM at h
  split at h <;> cases h
  all_goals
    rw [encode, eq_ofNat_of_toNat_eq hop]
    simp only [bytesLE_append, bytesLE_one]
    rfl

theorem encode_of_decodeR (hop : op.toNat = 0x01) (h : decodeR bs = .ok (i, rest)) : op :: bs = encode i ++ rest := by
  unfold decodeR at h
  split at h
  next ra rt func _ =>
    split at h <;> cases h
    all_goals
      rename_i hfunc
      rw [eq_ofNat_of_toNat_eq hop, eq_ofNat_of_toNat_eq hfunc]
      rfl
  next => cases h

/-- The two `~` bits are zero, so the byte is Imm6 below them. -/
theorem encode_of_decodeImm6 {ra rt field func : Byte} {mk : BitVec 6 → Instr} (hop : op.toNat = 0x02) (hfunc : func.toNat = n)
    (enc : ∀ imm, encode (mk imm) = [0x02#8, ra, 0#2 ++ imm, rt, BitVec.ofNat 8 n])
    (h : decodeImm6 field mk bs = .ok (i, rest)) : op :: ra :: field :: rt :: func :: bs = encode i ++ rest := by
  unfold decodeImm6 at h
  split at h <;> cases h
  next reserved =>
    have whole : field = 0#2 ++ field.extractLsb' 0 6 := by
      rw [← reserved]
      exact (BitVec.extractLsb'_append_extractLsb' (w := 2) (len := 6)).symm
    rw [enc, ← whole, eq_ofNat_of_toNat_eq hop, eq_ofNat_of_toNat_eq hfunc]
    rfl

theorem encode_of_decodeRR (hop : op.toNat = 0x02) (h : decodeRR bs = .ok (i, rest)) : op :: bs = encode i ++ rest := by
  unfold decodeRR at h
  split at h
  next ra rb rt func tail =>
    split at h
    any_goals exact encode_of_decodeImm6 hop (by assumption) (fun _ => rfl) h
    all_goals
      cases h
    all_goals
      rename_i hfunc
      rw [eq_ofNat_of_toNat_eq hop, eq_ofNat_of_toNat_eq hfunc]
      rfl
  next => cases h

/-- First bytes 08h to 1Fh: the group's number above Ft. -/
theorem eq_group_append (hop : (op.extractLsb' 3 5).toNat = n) : op = BitVec.ofNat 5 n ++ op.extractLsb' 0 3 := by
  have group : op.extractLsb' 3 5 = BitVec.ofNat 5 n := by
    rw [← hop, BitVec.ofNat_toNat, BitVec.setWidth_eq]
  rw [← group]
  exact (BitVec.extractLsb'_append_extractLsb' (w := 5) (len := 3)).symm

theorem encode_of_decodeTST (hop : (op.extractLsb' 3 5).toNat = 1)
    (h : decodeTST (op.extractLsb' 0 3) bs = .ok (i, rest)) : op :: bs = encode i ++ rest := by
  unfold decodeTST at h
  split at h <;> cases h
  exact congrArg (· :: _) (eq_group_append hop)

theorem encode_of_decodeCMPI (hop : (op.extractLsb' 3 5).toNat = 2)
    (h : decodeCMPI (op.extractLsb' 0 3) bs = .ok (i, rest)) : op :: bs = encode i ++ rest := by
  unfold decodeCMPI at h
  split at h <;> cases h
  exact congrArg (· :: _) (eq_group_append hop)

theorem encode_of_decodeCMP (hop : (op.extractLsb' 3 5).toNat = 3)
    (h : decodeCMP (op.extractLsb' 0 3) bs = .ok (i, rest)) : op :: bs = encode i ++ rest := by
  unfold decodeCMP at h
  split at h <;> cases h
  exact congrArg (· :: _) (eq_group_append hop)

end

/-- The bytes that decode are the encoding of the instruction and what follows it: along the opcode map, by the lemma about the
format at each opcode. -/
theorem eq_encode_append_of_decode {op : Byte} {bs rest : List Byte} {i : Instr} (h : decode (op :: bs) = .ok (i, rest)) :
    op :: bs = encode i ++ rest := by
  unfold decode at h
  dsimp only at h
  split at h
  next hop => exact encode_of_decodeTST hop h
  next hop => exact encode_of_decodeCMPI hop h
  next hop => exact encode_of_decodeCMP hop h
  next =>
    split at h
    next hop => exact encode_of_decodeR hop h
    next hop => exact encode_of_decodeRR hop h
    any_goals exact encode_of_decodeRI (by assumption) (fun _ _ _ => rfl) h
    any_goals exact encode_of_decodeBCC (by assumption) (fun _ _ => rfl) h
    any_goals exact encode_of_decodeLBCC (by assumption) (fun _ _ => rfl) h
    any_goals exact encode_of_decodeBR (by assumption) (fun _ _ => rfl) h
    any_goals exact encode_of_decodePUSH (by assumption) (fun _ => rfl) h
    any_goals exact encode_of_decodeIMM (by assumption) h
    any_goals exact encode_of_ok (by assumption) rfl h
    next hop => exact encode_of_decodeJALR hop h
    next hop => exact encode_of_decodeJALR24 hop h
    next hop => exact encode_of_decodeCAS hop h
    next hop => exact encode_of_decodePUSHC hop h
    next => cases h

end Sys2Proof.Machine

namespace Sys2Proof.Machine

/-! ### The round trips -/

/-- Settles O4 by `encodes_encode`. -/
theorem decodeOfEncode : Obligations.DecodeOfEncode := encodes_encode

/-- Settles O5 by `eq_encode_append_of_decode`; the empty list decodes to nothing. -/
theorem encodeOfDecode : Obligations.EncodeOfDecode := by
  intro bytes i rest h
  cases bytes with
  | nil => nomatch h
  | cons op bs => exact eq_encode_append_of_decode h

/-- Settles O3: each word is the encoding of its instruction (`encodes_encode`), byte for byte. -/
theorem decodesWordsOfTheSpec : Obligations.DecodesWordsOfTheSpec :=
  ⟨encodes_encode (.sxb 2#8 1#8), encodes_encode (.addR 3#8 1#8 2#8), encodes_encode (.shlI 3#8 1#8 63#6),
    encodes_encode (.tst 1#3 5#8), encodes_encode (.addI 3#8 1#8 5#8), encodes_encode (.beq 0#3 4#5),
    encodes_encode (.lbne 2#3 4093#13), encodes_encode (.brz 4#8 0x0D#8), encodes_encode (.jalr 1#4 2#4),
    encodes_encode (.jalr24 1#4 0#4 0x123456#24), encodes_encode (.lb 3#8 2#8 0xFF#8), encodes_encode (.lbx 4#8 2#8 3#8),
    encodes_encode (.swx 1#8 2#8 3#8), encodes_encode (.cas 4#8 2#8 3#8 1#8), encodes_encode (.pushc 0xFFFE#16),
    encodes_encode (.imm24 0x123456#24), encodes_encode .cli⟩

/-! ### Lengths and illegal encodings -/

/-- The first bytes without a length are those of the list of R144. -/
theorem opcodeLength_eq_none_iff : ∀ op : Byte, opcodeLength op = none ↔ unassigned op.toNat = true := by decide

/-- The three groups whose first byte holds Ft have one length each (R121). -/
theorem opcodeLength_group (ft : FlagNum) :
    opcodeLength (1#5 ++ ft) = some 2 ∧ opcodeLength (2#5 ++ ft) = some 3 ∧ opcodeLength (3#5 ++ ft) = some 3 := by
  revert ft
  decide

/-- The first byte of an encoding determines its length (R121). -/
theorem opcodeLength_head_encode {i : Instr} {op : Byte} {rest : List Byte} (h : encode i = op :: rest) :
    opcodeLength op = some i.length := by
  have group := opcodeLength_group
  cases i <;> cases h
  case tst ft _ => obtain ⟨tst, _, _⟩ := group ft; exact tst
  case cmpi ft _ _ => obtain ⟨_, cmpi, _⟩ := group ft; exact cmpi
  case cmp ft _ _ => obtain ⟨_, _, cmp⟩ := group ft; exact cmp
  all_goals rfl

/-- A field of a byte, as a number. -/
theorem toNat_extractLsb'_byte (b : Byte) (k len : Nat) : (b.extractLsb' k len).toNat = b.toNat / 2 ^ k % 2 ^ len := by
  rw [BitVec.extractLsb'_toNat, Nat.shiftRight_eq_div_pow]

/-- No first byte of the list of R144 lies in 08h to 1Fh. -/
theorem group_of_unassigned {op : Byte} (h : unassigned op.toNat = true) : (op.extractLsb' 3 5).toNat ∉ [1, 2, 3] := by
  rw [toNat_extractLsb'_byte]
  simp only [unassigned, Bool.or_eq_true, Bool.and_eq_true, decide_eq_true_eq, beq_iff_eq] at h
  simp only [List.mem_cons, List.not_mem_nil, or_false]
  omega

theorem ne_unassigned {op : Byte} {n : Nat} (hop : op.toNat = n) (hn : unassigned n = false) : unassigned op.toNat ≠ true := by
  rw [hop, hn]
  decide

/-- A first byte of the list of R144 is none of the opcode map's, nor of the groups 08h to 1Fh. -/
theorem decode_unassigned {op : Byte} (rest : List Byte) (h : unassigned op.toNat = true) :
    decode (op :: rest) = .error (.unassignedOpcode op) := by
  have noGroup := group_of_unassigned h
  unfold decode
  dsimp only
  split
  next group => exact absurd (by simp [group]) noGroup
  next group => exact absurd (by simp [group]) noGroup
  next group => exact absurd (by simp [group]) noGroup
  next =>
    split
    any_goals exact absurd h (ne_unassigned (by assumption) (by rfl))
    rfl

/-- The third byte of a shift by an immediate is refused where it is 64 or more: one of its two `~` bits is set (R145). -/
theorem decodeImm6_reserved {field : Byte} (mk : BitVec 6 → Instr) (rest : List Byte) (h : 64 ≤ field.toNat) :
    decodeImm6 field mk rest = .error (.reservedBitsSet field) := by
  refine if_neg fun clear => ?_
  have top := toNat_extractLsb'_byte field 6 2
  have byte := field.isLt
  rw [clear, BitVec.toNat_zero] at top
  omega

/-- Settles O6. -/
theorem illegalEncodings : Obligations.IllegalEncodings := by
  refine ⟨opcodeLength_eq_none_iff, fun _ _ _ => opcodeLength_head_encode, fun _ => decode_unassigned, ?funcR, ?funcRR,
    ?reserved⟩
  case funcR =>
    intro ra rt func rest unlisted
    change decodeR (ra :: rt :: func :: rest) = _
    unfold decodeR
    dsimp only
    split <;> simp_all
  case funcRR =>
    intro ra rb rt func rest unlisted
    change decodeRR (ra :: rb :: rt :: func :: rest) = _
    unfold decodeRR
    dsimp only
    split <;> simp_all
  case reserved =>
    intro ra field rt func rest listed wide
    change decodeRR (ra :: field :: rt :: func :: rest) = _
    simp only [List.mem_cons, List.not_mem_nil, or_false] at listed
    unfold decodeRR
    dsimp only
    rcases listed with e | e | e | e | e <;> rw [e] <;> exact decodeImm6_reserved _ _ wide

/-! ### Fetch -/

/-- Fetch finds an absent byte. -/
theorem fetchBytes_of_absent (s : State) (a : Word) (n : Nat) (h : ∃ k < n, s.present (nth a k) = false) :
    fetchBytes s a n = none := by
  induction n generalizing a with
  | zero => simp at h
  | succ n ih =>
    obtain ⟨k, hk, absent⟩ := h
    cases k with
    | zero =>
      have first : s.present a = false := by simpa [nth] using absent
      simp [fetchBytes, first]
    | succ k =>
      have later : fetchBytes s (a + 1#64) n = none :=
        ih _ ⟨k, by omega, by rw [← absent]; congr 1; simp only [nth]; bv_omega⟩
      simp [fetchBytes, later]

section
variable {s : State} {len : Nat} {bytes : List Byte}

/-- Fetch where a byte of the instruction that the byte at the pc begins does not exist. -/
theorem fetch_of_absent (present : s.present s.pc = true) (length : opcodeLength (s.byteAt s.pc) = some len)
    (h : fetchBytes s s.pc len = none) : fetch s = .error .accessFault := by
  simp [fetch, present, length, h]

/-- Fetch where all bytes exist and decode to an instruction. -/
theorem fetch_of_decode_ok {i : Instr} {rest : List Byte} (present : s.present s.pc = true)
    (length : opcodeLength (s.byteAt s.pc) = some len) (h : fetchBytes s s.pc len = some bytes)
    (decoded : decode bytes = .ok (i, rest)) : fetch s = .ok i := by
  simp [fetch, present, length, h, decoded]

/-- Fetch where all bytes exist and decode to none. -/
theorem fetch_of_decode_error {e : DecodeError} (present : s.present s.pc = true)
    (length : opcodeLength (s.byteAt s.pc) = some len) (h : fetchBytes s s.pc len = some bytes)
    (decoded : decode bytes = .error e) : fetch s = .error .illegalInstruction := by
  simp [fetch, present, length, h, decoded]

end

theorem step_of_fetch_ok {s : State} {i : Instr} (quiet : s.irqToTake = none) (h : fetch s = .ok i) : step s = exec i s := by
  simp only [step, quiet, h]

theorem step_of_fetch_error {s : State} {e : Exn} (quiet : s.irqToTake = none) (h : fetch s = .error e) :
    step s = raise e s.pc s := by
  simp only [step, quiet, h]

/-- Settles O8: each clause is one answer of fetch, which the step raises at the pc. -/
theorem fetchRaises : Obligations.FetchRaises := by
  intro s quiet
  have raised : ∀ e, fetch s = .error e → Raises e s.pc s (step s) := fun e h => by
    rw [step_of_fetch_error quiet h]
    exact raises e s.pc s
  refine ⟨fun absent => raised _ ?nothing, fun present illegal => raised _ ?unassigned, fun len present length =>
    ⟨fun absent => raised _ ?short, fun complete undecodable => raised _ ?undecodable⟩⟩
  case nothing => simp [fetch, absent]
  case unassigned => simp [fetch, present, (opcodeLength_eq_none_iff _).2 illegal]
  case short => exact fetch_of_absent present length (fetchBytes_of_absent s s.pc len absent)
  case undecodable =>
    obtain ⟨e, undecoded⟩ := undecodable
    exact fetch_of_decode_error present length (fetchBytes_of_present s s.pc len complete) undecoded

/-- The first byte of an encoding, and the others. -/
theorem exists_encode_eq_cons (i : Instr) : ∃ op rest, encode i = op :: rest := by
  cases i <;> exact ⟨_, _, rfl⟩

theorem length_encode (i : Instr) : (encode i).length = i.length := by
  cases i <;> rfl

/-- Settles O7: the bytes fetched are the encoding, which decodes to the instruction (`encodes_encode`). -/
theorem stepRunsTheDecodedInstruction : Obligations.StepRunsTheDecodedInstruction := by
  intro s i quiet present bytes
  obtain ⟨op, rest, hencode⟩ := exists_encode_eq_cons i
  have positive : 0 < (encode i).length := by simp [hencode]
  have first : s.byteAt s.pc = op := by simpa [nth, hencode] using bytes 0 positive
  have length : opcodeLength (s.byteAt s.pc) = some i.length := by rw [first, opcodeLength_head_encode hencode]
  have here : s.present s.pc = true := by simpa [nth] using present 0 (length_encode i ▸ positive)
  have fetched : fetchBytes s s.pc i.length = some (encode i) := by
    rw [fetchBytes_of_present s s.pc i.length present]
    refine congrArg some (List.ext_getElem (by simp [length_encode]) fun k _ hk => ?_)
    rw [List.getElem_map, List.getElem_range]
    exact bytes k hk
  have decoded : decode (encode i) = .ok (i, []) := by simpa using encodes_encode i []
  exact step_of_fetch_ok quiet (fetch_of_decode_ok here length fetched decoded)

end Sys2Proof.Machine

namespace Sys2Proof.Machine

/-! ### What an instruction can do

One lemma for all instructions, `exec_runs`, says what a meaning may do: end in a state that keeps everything the instruction does
not name, raise an exception at the state it found, or refuse. The rules about the whole machine follow from it. -/

/-- What an instruction that raises nothing leaves. -/
structure Ends (i : Instr) (s t : State) : Prop where
  regs : ∀ r, regTarget i ≠ some r → (movesSp i = true → r ≠ s.launch.spReg) → t.reg r = s.reg r
  ca : ∀ c len, c ≠ 15#4 → caTarget i ≠ some c → t.caReg len c = s.caReg len c
  mem : t.mem = s.mem ∨
    mayStore i = true ∧ ∃ a n v, n ≤ 8 ∧ NotText s a n ∧ t.mem = Memory.writeLE s.mem a n v
  pc : mayJump i = false → t.pc = s.pc + BitVec.ofNat 64 i.length
  prefixes : isPrefix i = false → NoPrefix t
  irqPending : t.irqPending = s.irqPending
  launch : t.launch = s.launch

/-- What an instruction may do. -/
inductive Runs (i : Instr) (s : State) : Out → Prop
  | ends {t : State} (h : Ends i s t) : Runs i s (.next t)
  | raises {e : Exn} {info : Word} (h : e = .brk ∨ e = .overflow ∨ e = .illegalInstruction → info = s.pc) :
    Runs i s (raise e info s)
  | refuses (r : Refusal) : Runs i s (.refused r)

section
variable {i : Instr} {s : State}

/-! The checks before a meaning, and the accesses to memory -/

theorem runs_noImmPrefix {k : Out} (h : Runs i s k) : Runs i s (noImmPrefix s k) := by
  rcases noImmPrefix_cases s k with ⟨_, e⟩ | ⟨_, e⟩ <;> rw [e]
  · exact h
  · exact .refuses _

theorem runs_noTrapv {k : Out} (h : Runs i s k) : Runs i s (noTrapv s k) := by
  rcases noTrapv_cases s k with ⟨_, e⟩ | ⟨_, e⟩ <;> rw [e]
  · exact h
  · exact .refuses _

theorem runs_noPrefixes {k : Out} (h : Runs i s k) : Runs i s (noPrefixes s k) := runs_noImmPrefix (runs_noTrapv h)

theorem runs_withConst {w : Nat} {f : BitVec w} {k : Word → Out} (h : ∀ c, Runs i s (k c)) :
    Runs i s (withConst f s k) := by
  rcases withConst_cases f s k with ⟨c, _, e⟩ | ⟨_, e⟩ <;> rw [e]
  · exact h c
  · exact .refuses _

theorem runs_withDisp {ra : RegNum} {disp : BitVec 8} {k : Word → Out} (h : ∀ ea, Runs i s (k ea)) :
    Runs i s (withDisp ra disp s k) := runs_noTrapv (runs_withConst fun _ => h _)

theorem runs_withIndex {ra rb : RegNum} {k : Word → Out} (h : ∀ ea, Runs i s (k ea)) :
    Runs i s (withIndex ra rb s k) := runs_noTrapv (runs_withConst fun _ => h _)

/-- The checks of an access find Misaligned or AccessFault, and no exception that carries the pc. -/
theorem runs_raise_accessCheck {a : Word} {n : Nat} {e : Exn} (h : s.accessCheck a n = some e) :
    Runs i s (raise e a s) := by
  refine .raises fun carriesPc => ?_
  unfold State.accessCheck at h
  split at h
  next => cases h; simp at carriesPc
  next =>
    split at h <;> cases h
    simp at carriesPc

theorem runs_memRead {a : Word} {n : Nat} {k : BitVec (8 * n) → Out} (h : ∀ v, Runs i s (k v)) :
    Runs i s (memRead s a n k) := by
  rcases memRead_cases s a n k with ⟨_, e⟩ | ⟨_, check, e⟩ <;> rw [e]
  · exact h _
  · exact runs_raise_accessCheck check

theorem runs_memWrite {a : Word} {n : Nat} {v : BitVec (8 * n)} {k : State → Out}
    (h : NotText s a n → Runs i s (k { s with mem := Memory.writeLE s.mem a n v })) : Runs i s (memWrite s a n v k) := by
  rcases memWrite_cases s a n v k with ⟨_, noText, e⟩ | ⟨_, _, e⟩ | ⟨_, check, e⟩ <;> rw [e]
  · exact h ((anyByte_isText_iff s a n).1 noText)
  · exact .refuses _
  · exact runs_raise_accessCheck check

/-! The ends of instructions -/

/-- Every instruction but TRAPV and IMMn ends by `State.jump`, from a state `u` that has what it writes. -/
theorem ends_jump_of {u : State} {target : Word}
    (regs : ∀ r, regTarget i ≠ some r → (movesSp i = true → r ≠ s.launch.spReg) → u.reg r = s.reg r)
    (ca : ∀ c len, c ≠ 15#4 → caTarget i ≠ some c → u.caReg len c = s.caReg len c)
    (mem : u.mem = s.mem ∨
      mayStore i = true ∧ ∃ a n v, n ≤ 8 ∧ NotText s a n ∧ u.mem = Memory.writeLE s.mem a n v)
    (pc : mayJump i = false → target = s.pc + BitVec.ofNat 64 i.length)
    (irqPending : u.irqPending = s.irqPending) (launch : u.launch = s.launch) : Ends i s (u.jump target) where
  regs r h hsp := (jump_reg u target r).trans (regs r h hsp)
  ca c len hc h := (jump_caReg u target len c hc).trans (ca c len hc h)
  mem := mem
  pc := pc
  prefixes _ := ⟨rfl, rfl⟩
  irqPending := irqPending
  launch := launch

/-- The end that writes no register and no memory, from a state that has another flag register or another SR. -/
theorem ends_jump {u : State} {target : Word} (gpr : u.gpr = s.gpr) (ca : u.ca = s.ca) (mem : u.mem = s.mem)
    (pc : mayJump i = false → target = s.pc + BitVec.ofNat 64 i.length)
    (irqPending : u.irqPending = s.irqPending) (launch : u.launch = s.launch) : Ends i s (u.jump target) :=
  ends_jump_of (fun r _ _ => reg_congr gpr r) (fun c len hc _ => caReg_congr ca len len c hc) (.inl mem) pc irqPending launch

/-- The end that writes the target register. -/
theorem ends_setReg_jump {rt : RegNum} {v target : Word} (hrt : regTarget i = some rt)
    (pc : mayJump i = false → target = s.pc + BitVec.ofNat 64 i.length) : Ends i s ((s.setReg rt v).jump target) :=
  ends_jump_of (fun r h _ => reg_setReg_ne s rt r v fun e => h (e ▸ hrt)) (fun _ _ _ _ => setReg_caReg ..)
    (.inl (setReg_mem ..)) pc (setReg_irqPending ..) (setReg_launch ..)

theorem ends_result {rt : RegNum} {v len : Word} (hrt : regTarget i = some rt) (hlen : BitVec.ofNat 64 i.length = len) :
    Ends i s (s.result rt v len) :=
  ends_setReg_jump hrt fun _ => by rw [hlen, setReg_pc]

/-- The end that writes the link register. -/
theorem ends_setCa_jump {bd : CaNum} {v target : Word} (hbd : caTarget i = some bd) (jumps : mayJump i = true) :
    Ends i s ((s.setCa bd v).jump target) :=
  ends_jump_of (fun r _ _ => setCa_reg ..) (fun c len _ h => caReg_setCa_ne s bd c v len fun e => h (e ▸ hbd))
    (.inl (setCa_mem ..)) (fun h => by simp [jumps] at h) (setCa_irqPending ..) (setCa_launch ..)

/-! The families -/

theorem runs_next_result {rt : RegNum} {v len : Word} (hrt : regTarget i = some rt)
    (hlen : BitVec.ofNat 64 i.length = len) : Runs i s (.next (s.result rt v len)) := .ends (ends_result hrt hlen)

theorem runs_addOp {rt : RegNum} {a b len : Word} (hrt : regTarget i = some rt) (hlen : BitVec.ofNat 64 i.length = len) :
    Runs i s (addOp rt a b len s) := by
  rcases addOp_cases rt a b len s with ⟨_, _, e⟩ | ⟨_, e⟩ <;> rw [e]
  · exact .raises fun _ => rfl
  · exact runs_next_result hrt hlen

theorem runs_riOp {f : Word → Word → Word} {rt ra : RegNum} {imm : BitVec 8} (hrt : regTarget i = some rt)
    (hlen : BitVec.ofNat 64 i.length = 4#64) : Runs i s (riOp f rt ra imm s) :=
  runs_noTrapv (runs_withConst fun _ => runs_next_result hrt hlen)

theorem runs_divOp {corner : Word → Word → Bool} {f : Word → Word → Word} {rt ra : RegNum} {imm : BitVec 8}
    (hrt : regTarget i = some rt) (hlen : BitVec.ofNat 64 i.length = 4#64) : Runs i s (divOp corner f rt ra imm s) := by
  rcases divOp_cases corner f rt ra imm s with ⟨_, _, _, _, e⟩ | ⟨_, e⟩ <;> rw [e]
  · exact runs_next_result hrt hlen
  · exact .refuses _

theorem runs_shortBranch {c : Cond} {fa : FlagNum} {disp : BitVec 5} (jumps : mayJump i = true) :
    Runs i s (shortBranch c fa disp s) :=
  runs_noPrefixes (.ends (ends_jump rfl rfl rfl (fun h => by simp [jumps] at h) rfl rfl))

theorem runs_longBranch {c : Cond} {fa : FlagNum} {disp : BitVec 13} (jumps : mayJump i = true) :
    Runs i s (longBranch c fa disp s) :=
  runs_noPrefixes (.ends (ends_jump rfl rfl rfl (fun h => by simp [jumps] at h) rfl rfl))

theorem runs_regBranch {p : Word → Bool} {ra : RegNum} {disp : BitVec 8} (jumps : mayJump i = true) :
    Runs i s (regBranch p ra disp s) :=
  runs_noPrefixes (.ends (ends_jump rfl rfl rfl (fun h => by simp [jumps] at h) rfl rfl))

theorem runs_compareOp {ft : FlagNum} {a b len : Word} (hlen : BitVec.ofNat 64 i.length = len) :
    Runs i s (compareOp ft a b len s) :=
  runs_noPrefixes (.ends (ends_jump rfl rfl rfl (fun _ => by rw [hlen]; rfl) rfl rfl))

theorem runs_jumpAndLink {bd : CaNum} {target len : Word} (hbd : caTarget i = some bd) (jumps : mayJump i = true) :
    Runs i s (jumpAndLink bd target len s) := runs_noPrefixes (.ends (ends_setCa_jump hbd jumps))

theorem runs_loadSigned {n : Nat} {rt : RegNum} {ea : Word} (hrt : regTarget i = some rt)
    (hlen : BitVec.ofNat 64 i.length = 4#64) : Runs i s (loadSigned n rt s ea) :=
  runs_memRead fun _ => runs_next_result hrt hlen

theorem runs_loadUnsigned {n : Nat} {rt : RegNum} {ea : Word} (hrt : regTarget i = some rt)
    (hlen : BitVec.ofNat 64 i.length = 4#64) : Runs i s (loadUnsigned n rt s ea) :=
  runs_memRead fun _ => runs_next_result hrt hlen

theorem runs_store {n : Nat} {rs : RegNum} {ea : Word} (hn : n ≤ 8) (stores : mayStore i = true)
    (hlen : BitVec.ofNat 64 i.length = 4#64) : Runs i s (store n rs s ea) :=
  runs_memWrite fun noText => .ends (ends_jump_of (fun _ _ _ => reg_congr rfl _) (fun _ _ hc _ => caReg_congr rfl _ _ _ hc)
    (.inr ⟨stores, ea, n, _, hn, noText, rfl⟩) (fun _ => by rw [hlen]) rfl rfl)

/-- Reading a general register after a write to the stack pointer. -/
theorem reg_setSp_ne (s : State) (v : Word) {r : RegNum} (h : r ≠ s.launch.spReg) : (s.setSp v).reg r = s.reg r :=
  reg_setReg_ne s _ r v h

theorem runs_pushWord {v len : Word} (stores : mayStore i = true) (moves : movesSp i = true)
    (hlen : BitVec.ofNat 64 i.length = len) : Runs i s (pushWord v len s) :=
  runs_memWrite fun noText => .ends (ends_jump_of
    (fun r _ hsp => (reg_setSp_ne _ _ (by exact hsp moves)).trans (reg_congr rfl r))
    (fun _ _ hc _ => (setReg_caReg ..).trans (caReg_congr rfl _ _ _ hc))
    (.inr ⟨stores, _, 8, _, le_refl 8, noText, setReg_mem ..⟩) (fun _ => by simp [hlen, State.setSp])
    (setReg_irqPending ..) (setReg_launch ..))

theorem runs_execPush (ra : RegNum) : Runs (.push ra) s (execPush ra s) := by
  refine runs_noPrefixes ?_
  split
  next ofSp => exact .refuses _
  next => exact runs_pushWord rfl rfl rfl

theorem runs_execPop (rt : RegNum) : Runs (.pop rt) s (execPop rt s) := by
  refine runs_noPrefixes ?_
  split
  next ofSp => exact .refuses _
  next =>
    split
    next intoR0 =>
      exact .ends (ends_jump_of (fun _ _ hsp => reg_setSp_ne _ _ (hsp rfl)) (fun _ _ _ _ => setReg_caReg ..)
        (.inl (setReg_mem ..)) (fun _ => by simp [State.setSp]; rfl) (setReg_irqPending ..) (setReg_launch ..))
    next =>
      refine runs_memRead fun v => .ends (ends_jump_of (fun r h hsp => ?_) ?_ (.inl ?_) (fun _ => ?_) ?_ ?_)
      · have notSp : r ≠ (s.setReg rt v).launch.spReg := by simpa using hsp rfl
        rw [reg_setSp_ne _ _ notSp, reg_setReg_ne s rt r v fun e => h (e ▸ rfl)]
      all_goals simp [State.setSp]
      rfl

theorem runs_execCas (rt rb rc ra : RegNum) : Runs (.cas rt rb rc ra) s (execCas rt rb rc ra s) := by
  refine runs_noTrapv (runs_withConst fun c => ?_)
  split
  next misaligned => exact .raises (by simp)
  next =>
    refine runs_memRead fun old => ?_
    split
    next swap =>
      refine runs_memWrite fun noText => .ends (ends_jump_of (fun r h _ => ?_) ?_
        (.inr ⟨rfl, _, 8, _, le_refl 8, noText, setReg_mem ..⟩) (fun _ => ?_) (setReg_irqPending ..) (setReg_launch ..))
      · exact (reg_setReg_ne _ rt r old fun e => h (e ▸ rfl)).trans (reg_congr rfl r)
      · exact fun c len hc _ => (setReg_caReg ..).trans (caReg_congr rfl len len c hc)
      · rw [setReg_pc]; rfl
    next => exact runs_next_result rfl rfl

/-- The state that TRAPV and IMMn leave: the prefixes `p` and `v` pending, `len` bytes on. -/
def State.withPrefixes (s : State) (p : Option ImmPrefix) (v : Bool) (len : Word) : State :=
  { s with ipfx := p, tpfx := v, pc := s.pc + len }

theorem ends_withPrefixes {p : Option ImmPrefix} {v : Bool} {len : Word} (isPfx : isPrefix i = true)
    (hlen : BitVec.ofNat 64 i.length = len) : Ends i s (s.withPrefixes p v len) where
  regs r _ _ := reg_congr rfl r
  ca c l hc _ := caReg_congr (show (s.withPrefixes p v len).ca = s.ca from rfl) l l c hc
  mem := .inl rfl
  pc _ := by rw [hlen]; rfl
  prefixes h := by simp [isPfx] at h
  irqPending := rfl
  launch := rfl

theorem runs_execTrapv : Runs .trapv s (execTrapv s) := by
  unfold execTrapv
  split
  next second => exact .refuses _
  next => exact .ends (ends_withPrefixes (p := s.ipfx) (v := true) rfl rfl)

theorem runs_immPrefixOp {p : ImmPrefix} {len : Word} (isPfx : isPrefix i = true)
    (hlen : BitVec.ofNat 64 i.length = len) : Runs i s (immPrefixOp p len s) := by
  rcases immPrefixOp_cases p len s with ⟨_, e⟩ | ⟨_, e⟩ <;> rw [e]
  · exact .ends (ends_withPrefixes (p := some p) (v := s.tpfx) isPfx hlen)
  · exact .refuses _

end

/-- What each instruction may do, by its family. -/
theorem exec_runs (i : Instr) (s : State) : Runs i s (exec i s) := by
  cases i
  case tst | cmpi | cmp => exact runs_compareOp rfl
  case sxb | sxc | sxh | andR | shlR | rolR | shrR | rorR | asrR | shlI | rolI | shrI | rorI | asrI =>
    exact runs_noPrefixes (runs_next_result rfl rfl)
  case beq | bne | bvs | bvc | bmi | bpl | bra | bnv | bgt | ble | bge | blt | bhi | bls | bhs | blo =>
    exact runs_shortBranch rfl
  case lbeq | lbne | lbvs | lbvc | lbmi | lbpl | lbra | lbnv | lbgt | lble | lbge | lblt | lbhi | lbls | lbhs | lblo =>
    exact runs_longBranch rfl
  case addR => exact runs_noImmPrefix (runs_addOp rfl rfl)
  case addI => exact runs_withConst fun _ => runs_addOp rfl rfl
  case subI | mulI | muluI | andI | orI | eorI | seqI | sneI | sgtI | sleI | sgeI | sltI | shiI | slsI | shsI | sloI =>
    dsimp only [exec]
    exact runs_riOp rfl rfl
  case divI | remI | divuI | remuI => exact runs_divOp rfl rfl
  case brz | brnz | brmi | brpl =>
    dsimp only [exec]
    exact runs_regBranch rfl
  case dbnz => exact runs_noPrefixes (.ends (ends_setReg_jump rfl nofun))
  case jalr | jalr24 => exact runs_jumpAndLink rfl rfl
  case ret => exact runs_noPrefixes (.ends (ends_jump rfl rfl rfl nofun rfl rfl))
  case lb | lc | lh | lw => exact runs_withDisp fun _ => runs_loadSigned rfl rfl
  case lbu | lcu | lhu => exact runs_withDisp fun _ => runs_loadUnsigned rfl rfl
  case lea => exact runs_withDisp fun _ => runs_next_result rfl rfl
  case lbx | lcx | lhx | lwx => exact runs_withIndex fun _ => runs_loadSigned rfl rfl
  case lbux | lcux | lhux => exact runs_withIndex fun _ => runs_loadUnsigned rfl rfl
  case leax => exact runs_withIndex fun _ => runs_next_result rfl rfl
  case sb | sc | sh | sw => exact runs_withDisp fun _ => runs_store (by decide) rfl rfl
  case sbx | scx | shx | swx => exact runs_withIndex fun _ => runs_store (by decide) rfl rfl
  case push => exact runs_execPush _
  case pushc => exact runs_noTrapv (runs_withConst fun _ => runs_pushWord rfl rfl rfl)
  case pop => exact runs_execPop _
  case cas => exact runs_execCas ..
  case brk => exact runs_noPrefixes (.raises fun _ => rfl)
  case nop | cli => exact runs_noPrefixes (.ends (ends_jump rfl rfl rfl (fun _ => rfl) rfl rfl))
  case cinv | sws | cinvx => exact runs_noPrefixes (.refuses _)
  case trapv => exact runs_execTrapv
  case imm8 | imm16 | imm24 | imm32 | imm40 | imm48 | imm56 | imm64 => exact runs_immPrefixOp rfl rfl

end Sys2Proof.Machine

namespace Sys2Proof.Machine

/-! ### What a step can do -/

/-- The state in which a machine that continues after an exception goes on at `pc`. -/
def State.handling (s : State) (pc : Word) : State := { s.enterException with pc := pc }

section
variable {i : Instr} {s t u : State} {e : Exn} {info : Word}

/-- The next states of `raise`: the machine continues into a handler. -/
theorem raise_eq_next (h : raise e info s = .next t) : s.launch.trapMode = .handler ∧ ∃ pc, t = s.handling pc := by
  rcases raise_cases e info s with ⟨_, raised⟩ | ⟨handler, raised⟩
  · nomatch h.symm.trans raised
  · cases h.symm.trans raised
    exact ⟨handler, _, rfl⟩

/-- The fault of `raise`: the run ends with the state that exception entry leaves. -/
theorem raise_eq_fault {e' : Exn} {info' : Word} (h : raise e info s = .fault (.trapped e' info' u)) :
    s.launch.trapMode = .terminal ∧ e' = e ∧ info' = info ∧ u = s.enterException := by
  rcases raise_cases e info s with ⟨terminal, raised⟩ | ⟨_, raised⟩
  · cases h.symm.trans raised
    exact ⟨terminal, rfl, rfl, rfl⟩
  · nomatch h.symm.trans raised

/-- An instruction that goes on has ended, or has raised an exception into a handler. -/
theorem exec_next_cases (h : exec i s = .next t) :
    Ends i s t ∨ s.launch.trapMode = .handler ∧ ∃ pc, t = s.handling pc := by
  have runs := exec_runs i s
  generalize exec i s = o at h runs
  cases runs with
  | ends ended => cases h; exact .inl ended
  | raises => exact .inr (raise_eq_next h)
  | refuses => nomatch h

/-- An instruction that stops in a fault has raised it at the state it found. -/
theorem exec_eq_fault (h : exec i s = .fault (.trapped e info u)) :
    s.launch.trapMode = .terminal ∧ u = s.enterException ∧
      (e = .brk ∨ e = .overflow ∨ e = .illegalInstruction → info = s.pc) := by
  have runs := exec_runs i s
  generalize exec i s = o at h runs
  cases runs with
  | ends => nomatch h
  | raises carriesPc =>
    obtain ⟨terminal, rfl, rfl, hu⟩ := raise_eq_fault h
    exact ⟨terminal, hu, carriesPc⟩
  | refuses => nomatch h

/-- The state that interrupt entry leaves (R532). -/
def State.interrupted (s : State) (src : IrqSource) : State :=
  { s.setCa 14#4 s.pc with sr := srOnInterrupt s.sr, pc := Config.irqTarget src (s.caReg 0#64 12#4) s.mem }

/-- A step that goes on has taken an interrupt, run an instruction, or entered a handler for what fetch raised. -/
theorem step_next_cases (h : step s = .next t) :
    (∃ src, s.irqToTake = some src ∧ t = s.interrupted src) ∨
    (s.irqToTake = none ∧ ∃ i, exec i s = .next t) ∨
    (s.irqToTake = none ∧ s.launch.trapMode = .handler ∧ ∃ pc, t = s.handling pc) := by
  rcases step_cases s with ⟨src, taken, stepped⟩ | ⟨quiet, i, _, stepped⟩ | ⟨quiet, e, _, stepped⟩
  · rcases takeInterrupt_cases src s with ⟨_, entered⟩ | ⟨_, entered⟩
    · nomatch h.symm.trans (stepped.trans entered)
    · cases h.symm.trans (stepped.trans entered)
      exact .inl ⟨src, taken, rfl⟩
  · exact .inr (.inl ⟨quiet, i, stepped.symm.trans h⟩)
  · exact .inr (.inr ⟨quiet, raise_eq_next (stepped.symm.trans h)⟩)

/-- A step that stops in a fault has raised it at the state it found. -/
theorem step_eq_fault (h : step s = .fault (.trapped e info u)) :
    s.launch.trapMode = .terminal ∧ u = s.enterException ∧
      (e = .brk ∨ e = .overflow ∨ e = .illegalInstruction → info = s.pc) := by
  rcases step_cases s with ⟨src, _, stepped⟩ | ⟨_, i, _, stepped⟩ | ⟨_, e, _, stepped⟩
  · rcases takeInterrupt_cases src s with ⟨_, entered⟩ | ⟨_, entered⟩
    · nomatch h.symm.trans (stepped.trans entered)
    · nomatch h.symm.trans (stepped.trans entered)
  · exact exec_eq_fault (stepped.symm.trans h)
  · obtain ⟨terminal, rfl, rfl, hu⟩ := raise_eq_fault (stepped.symm.trans h)
    exact ⟨terminal, hu, fun _ => rfl⟩

/-! What exception and interrupt entry leave unchanged -/

@[simp] theorem handling_sr (pc : Word) : (s.handling pc).sr = s.sr := enterException_sr s
@[simp] theorem handling_mem (pc : Word) : (s.handling pc).mem = s.mem := enterException_mem s
@[simp] theorem handling_launch (pc : Word) : (s.handling pc).launch = s.launch := enterException_launch s
@[simp] theorem handling_irqPending (pc : Word) : (s.handling pc).irqPending = s.irqPending := enterException_irqPending s
@[simp] theorem handling_reg (pc : Word) (r : RegNum) : (s.handling pc).reg r = s.reg r := reg_congr (enterException_gpr s) r
@[simp] theorem interrupted_mem (src : IrqSource) : (s.interrupted src).mem = s.mem := setCa_mem ..
@[simp] theorem interrupted_launch (src : IrqSource) : (s.interrupted src).launch = s.launch := setCa_launch ..
@[simp] theorem interrupted_irqPending (src : IrqSource) : (s.interrupted src).irqPending = s.irqPending := setCa_irqPending ..

/-! ### Rules about every step -/

/-- What an instruction may do to memory is to write some bytes at one address. -/
theorem Ends.wf_mem (h : Ends i s t) (wf : Memory.wf s.mem = true) : Memory.wf t.mem = true := by
  rcases h.mem with same | ⟨_, a, n, v, _, _, written⟩
  · rwa [same]
  · rw [written]
    exact Memory.wf_writeLE wf a n v

theorem step_keeps_wf_mem (h : step s = .next t) (wf : Memory.wf s.mem = true) : Memory.wf t.mem = true := by
  rcases step_next_cases h with ⟨src, _, rfl⟩ | ⟨_, i, ran⟩ | ⟨_, _, pc, rfl⟩
  · rwa [interrupted_mem]
  · rcases exec_next_cases ran with ended | ⟨_, pc, rfl⟩
    · exact ended.wf_mem wf
    · rwa [handling_mem]
  · rwa [handling_mem]

theorem step_next_keeps_launch (h : step s = .next t) : t.launch = s.launch ∧ t.irqPending = s.irqPending := by
  rcases step_next_cases h with ⟨src, _, rfl⟩ | ⟨_, i, ran⟩ | ⟨_, _, pc, rfl⟩
  · simp
  · rcases exec_next_cases ran with ended | ⟨_, pc, rfl⟩
    · exact ⟨ended.launch, ended.irqPending⟩
    · simp
  · simp

/-- Settles O9: an instruction writes whole bytes within the canonical form (`Ends.wf_mem`), and no step changes the launch. -/
theorem stepKeepsInvariant : Obligations.StepKeepsInvariant := by
  intro s t ⟨memory, launch⟩ h
  obtain ⟨sameLaunch, _⟩ := step_next_keeps_launch h
  exact ⟨step_keeps_wf_mem h memory, sameLaunch ▸ launch⟩

/-- Settles O10 by `step_eq_fault`: the state carried is what exception entry leaves. -/
theorem exceptionsArePrecise : Obligations.ExceptionsArePrecise := by
  intro s e info u h
  obtain ⟨terminal, rfl, carriesPc⟩ := step_eq_fault h
  exact ⟨entered_pc s, terminal, carriesPc⟩

/-- Settles O11. -/
theorem stepKeepsLaunchAndInputs : Obligations.StepKeepsLaunchAndInputs := by
  rintro s t (next | ⟨e, info, fault⟩)
  · exact step_next_keeps_launch next
  · obtain ⟨_, rfl, _⟩ := step_eq_fault fault
    exact ⟨enterException_launch s, enterException_irqPending s⟩

/-! ### The status register -/

/-- An instruction changes no bit of SR but IM, which it may clear. -/
theorem exec_sr_bits (h : exec i s = .next t) : ∀ k < 32, k ≠ 15 → t.sr.getLsbD k = s.sr.getLsbD k := by
  intro k hk notIm
  by_cases hi : i = .cli
  · subst hi
    rcases exec_cli_cases s with ⟨_, _, runs⟩ | ⟨_, refused⟩
    · cases h.symm.trans runs
      rw [getLsbD_afterCli_sr s k hk, if_neg notIm]
    · nomatch h.symm.trans refused
  · rw [(exec_keepsSr s hi).of_eq_next h]

/-- Interrupt entry copies the lower half of SR to the upper, sets IM and leaves the other bits (R51). -/
theorem srOnInterrupt_upper (sr : BitVec 32) : (srOnInterrupt sr).extractLsb' 16 16 = sr.extractLsb' 0 16 :=
  BitVec.extractLsb'_append_eq_left

theorem getLsbD_srOnInterrupt (sr : BitVec 32) {k : Nat} (hk : k < 16) :
    (srOnInterrupt sr).getLsbD k = (sr.getLsbD k || decide (k = 15)) := by
  have mask : 0x8000#16 = BitVec.twoPow 16 15 := by decide
  have below : (srOnInterrupt sr).getLsbD k = (sr.extractLsb' 0 16 ||| 0x8000#16).getLsbD k := by
    unfold srOnInterrupt
    rw [BitVec.getLsbD_append, if_pos hk]
  rw [below, mask, BitVec.getLsbD_or, BitVec.getLsbD_twoPow]
  by_cases im : k = 15
  · subst im; simp
  · have im' : ¬15 = k := fun e => im e.symm
    simp [hk, im, im']

/-- A step that takes no interrupt changes no bit of SR but IM, which it may clear. -/
theorem step_sr_of_quiet (quiet : s.irqToTake = none) (h : step s = .next t) :
    (∀ k < 32, k ≠ 15 → t.sr.getLsbD k = s.sr.getLsbD k) ∧ (s.im = false → t.im = false) := by
  rcases step_next_cases h with ⟨src, taken, _⟩ | ⟨_, i, ran⟩ | ⟨_, _, pc, rfl⟩
  · nomatch quiet.symm.trans taken
  · exact ⟨exec_sr_bits ran, exec_im_eq_false ran⟩
  · simp [State.im]

/-- Settles O12: without an interrupt by `step_sr_of_quiet`; interrupt entry leaves bits 14 to 0 (`getLsbD_srOnInterrupt`). -/
theorem statusRegisterFields : Obligations.StatusRegisterFields := by
  intro s t h
  refine ⟨fun k hk => ?_, fun quiet => ?_⟩
  · cases htake : s.irqToTake with
    | none => exact (step_sr_of_quiet htake h).1 k (by omega) (by omega)
    | some src =>
      rcases step_next_cases h with ⟨src, _, rfl⟩ | ⟨quiet, _⟩ | ⟨quiet, _⟩
      · change (srOnInterrupt s.sr).getLsbD k = _
        simp [getLsbD_srOnInterrupt s.sr (show k < 16 by omega), show k ≠ 15 by omega]
      · nomatch quiet.symm.trans htake
      · nomatch quiet.symm.trans htake
  · obtain ⟨bits, im⟩ := step_sr_of_quiet quiet h
    refine ⟨BitVec.eq_of_getLsbD_eq fun k hk => ?_, im⟩
    simp only [BitVec.getLsbD_extractLsb', bits (16 + k) (by omega) (by omega)]

/-! ### Interrupts -/

/-- Settles O19. -/
theorem interruptAdmission : Obligations.InterruptAdmission := by
  intro s
  by_cases pending : NoPrefix s
  · have take : s.irqToTake = s.irqPending.find? s.admitsIrq := by
      obtain ⟨hipfx, htpfx⟩ := pending
      simp [State.irqToTake, hipfx, htpfx]
    refine ⟨fun src taken => ?_, fun none => .inr fun src input source => ?_⟩
    · rw [take] at taken
      obtain ⟨source, unmasked⟩ := (admitsIrq_iff s src).1 (List.find?_some taken)
      exact ⟨pending, List.mem_of_find?_eq_some taken, source, unmasked⟩
    · rw [take, List.find?_eq_none] at none
      have notAdmitted := none src input
      rw [admitsIrq_iff] at notAdmitted
      simpa [source] using notAdmitted
  · have take : s.irqToTake = none := by
      unfold State.irqToTake
      refine if_neg fun h => pending ?_
      simpa [NoPrefix] using h
    exact ⟨fun src taken => (nomatch take.symm.trans taken), fun _ => .inl pending⟩

theorem interrupted_im (s : State) (src : IrqSource) : (s.interrupted src).im = true := by
  change (srOnInterrupt s.sr).getLsbD 15 = true
  simp [getLsbD_srOnInterrupt s.sr (show 15 < 16 by decide)]

/-- Settles O20: the state interrupt entry leaves is `State.interrupted`, whose SR is `srOnInterrupt`. -/
theorem interruptEntry : Obligations.InterruptEntry := by
  intro s src taken
  have stepped : step s = takeInterrupt src s := by simp only [step, taken]
  have noPfx : NoPrefix s := ((interruptAdmission s).1 src taken).1
  obtain ⟨hipfx, htpfx⟩ := noPfx
  rw [stepped]
  refine ⟨fun unsupplied => by simp [takeInterrupt, unsupplied], fun supplied => ?_⟩
  have next : takeInterrupt src s = .next (s.interrupted src) := by simp [takeInterrupt, supplied, State.interrupted]
  rw [next]
  refine completes_next ⟨reg_congr (setCa_gpr ..), ?ca, flag_congr (setCa_flags ..), setCa_byteAt s 14#4 s.pc,
    srOnInterrupt_upper s.sr, interrupted_im s src, ?bits, ?ends⟩
  case ca =>
    intro c len hc
    have sameCa : (s.interrupted src).ca = (s.setCa 14#4 s.pc).ca := rfl
    rw [caReg_congr sameCa len len c hc, caReg_setCa]
    simp
  case bits =>
    intro k hk
    change (srOnInterrupt s.sr).getLsbD k = _
    simp [getLsbD_srOnInterrupt s.sr (show k < 16 by omega), show k ≠ 15 by omega]
  case ends =>
    exact ⟨rfl, (setCa_ipfx ..).trans hipfx, (setCa_tpfx ..).trans htpfx, setCa_irqPending .., setCa_launch ..⟩

/-! ### What an instruction writes -/

/-- Settles O14. -/
theorem generalRegisterWriters : Obligations.GeneralRegisterWriters := by
  intro i s t h
  refine ⟨reg_zero t, fun r notTarget notSp => ?_⟩
  rcases exec_next_cases h with ended | ⟨_, pc, rfl⟩
  · exact ended.regs r notTarget notSp
  · exact handling_reg pc r

/-- Settles O15: an exception entered into a handler writes CA13 alone. -/
theorem codeAddressRegisterWriters : Obligations.CodeAddressRegisterWriters := by
  intro i s t c h notPc notLink atCa13 len
  refine ⟨?_, caReg_zero t len⟩
  rcases exec_next_cases h with ended | ⟨handler, pc, rfl⟩
  · exact ended.ca c len notPc notLink
  · have not13 : c ≠ 13#4 := fun e => nomatch handler.symm.trans (atCa13 e)
    have sameCa : (s.handling pc).ca = (s.setCa 13#4 s.pc).ca := rfl
    rw [caReg_congr sameCa len len c notPc, caReg_setCa_ne _ _ _ _ _ not13]

/-- A write that meets no program text leaves every byte of it (R98). -/
theorem read_writeLE_of_isText {a b : Word} {n : Nat} {v : BitVec (8 * n)} (wf : Memory.wf s.mem = true) (hn : n ≤ 8)
    (noText : NotText s a n) (text : s.isText b = true) :
    Memory.read (Memory.writeLE s.mem a n v) b.toNat = s.byteAt b := by
  rw [Memory.read_writeLE wf a b n (by omega), if_neg]
  · rfl
  · intro inside
    have here : nth a (b - a).toNat = b := by
      unfold nth
      rw [BitVec.ofNat_toNat, BitVec.setWidth_eq, BitVec.add_comm, BitVec.sub_add_cancel]
    have untexted := noText _ inside
    rw [here, text] at untexted
    nomatch untexted

/-- Settles O16. -/
theorem memoryWriters : Obligations.MemoryWriters := by
  intro i s t h
  rcases exec_next_cases h with ended | ⟨_, pc, rfl⟩
  · rcases ended.mem with same | ⟨stores, a, n, v, hn, noText, written⟩
    · have bytes : SameBytes s t := fun b => congrArg (Memory.read · b.toNat) same
      exact ⟨fun _ => bytes, fun _ b _ => bytes b⟩
    · refine ⟨fun storesNot => (nomatch storesNot.symm.trans stores), fun wf b text => ?_⟩
      unfold State.byteAt
      rw [written]
      exact read_writeLE_of_isText wf hn noText text
  · have bytes : SameBytes s (s.handling pc) := fun b => congrArg (Memory.read · b.toNat) (handling_mem pc)
    exact ⟨fun _ => bytes, fun _ b _ => bytes b⟩

/-- Settles O17: a handler is entered in a machine that continues only, and with neither IMMn nor TRAPV pending. -/
theorem endOfInstruction : Obligations.EndOfInstruction := by
  intro i s t h
  rcases exec_next_cases h with ended | ⟨handler, pc, rfl⟩
  · exact ⟨fun _ => ended.pc, ended.prefixes⟩
  · exact ⟨fun terminal => (nomatch handler.symm.trans terminal), fun _ => ⟨rfl, rfl⟩⟩

end

/-! ### The admission of prefixes -/

/-- How a meaning admits pending prefixes: it begins with one of four checks, the one its constant field and its acceptance of
TRAPV ask for. -/
inductive Checks (i : Instr) (s : State) : Out → Prop
  | noPrefixes (k : Out) (field : i.constWidth = none) : Checks i s (noPrefixes s k)
  | trapv (k : Out) (field : i.constWidth = none) (accepts : i.acceptsTrapv = true) : Checks i s (noImmPrefix s k)
  | const {w : Nat} (f : BitVec w) (k : Word → Out) (field : i.constWidth = some w) :
    Checks i s (noTrapv s (withConst f s k))
  | trapvAndConst {w : Nat} (f : BitVec w) (k : Word → Out) (field : i.constWidth = some w)
    (accepts : i.acceptsTrapv = true) : Checks i s (withConst f s k)

/-- Every instruction but TRAPV and IMMn begins with its check. -/
theorem exec_checks {i : Instr} (s : State) (h : isPrefix i = false) : Checks i s (exec i s) := by
  cases i
  case trapv | imm8 | imm16 | imm24 | imm32 | imm40 | imm48 | imm56 | imm64 => nomatch h
  case addR => exact .trapv _ rfl rfl
  case addI => exact .trapvAndConst _ _ rfl rfl
  case subI | mulI | divI | remI | andI | orI | eorI | muluI | divuI | remuI => exact .const _ _ rfl
  case seqI | sneI | sgtI | sleI | sgeI | sltI | shiI | slsI | shsI | sloI => exact .const _ _ rfl
  case lb | lbu | lc | lcu | lh | lhu | lw | lea | lbx | lbux | lcx | lcux | lhx | lhux | lwx | leax =>
    exact .const _ _ rfl
  case sb | sc | sh | sw | sbx | scx | shx | swx | pushc | cas => exact .const _ _ rfl
  all_goals exact .noPrefixes _ rfl

/-- A constant that with the pending IMMn exceeds 64 bits is refused (R131). -/
theorem refuses_withConst {w : Nat} {f : BitVec w} {s : State} {k : Word → Out} {p : ImmPrefix} (hp : s.ipfx = some p)
    (wide : ¬p.bits + w ≤ 64) : Refuses (withConst f s k) := by
  rcases withConst_cases f s k with ⟨c, some, _⟩ | ⟨_, e⟩
  · simp [immConst, hp, wide] at some
  · exact ⟨_, e⟩

theorem refuses_noTrapv {s : State} {k : Out} (h : s.tpfx = true ∨ Refuses k) : Refuses (noTrapv s k) := by
  rcases noTrapv_cases s k with ⟨off, e⟩ | ⟨_, e⟩
  · rw [e]
    exact h.resolve_left (by simp [off])
  · exact ⟨_, e⟩

/-- Settles O18: each of the four checks refuses where the prefixes pending are not admitted. -/
theorem prefixAdmission : Obligations.PrefixAdmission := by
  intro i s notPrefix unadmitted
  unfold Instr.admits at unadmitted
  have checks := exec_checks s notPrefix
  generalize exec i s = o at checks
  cases checks with
  | noPrefixes k field =>
    rcases noPrefixes_cases s k with ⟨hipfx, htpfx, _⟩ | ⟨_, refused⟩
    · simp [hipfx, htpfx] at unadmitted
    · exact refused
  | trapv k field accepts =>
    rcases noImmPrefix_cases s k with ⟨hipfx, _⟩ | ⟨_, refused⟩
    · simp [hipfx, accepts] at unadmitted
    · exact ⟨_, refused⟩
  | const f k field =>
    apply refuses_noTrapv
    cases htpfx : s.tpfx with
    | true => exact .inl rfl
    | false =>
      cases hipfx : s.ipfx with
      | none => simp [hipfx, htpfx] at unadmitted
      | some p => exact .inr (refuses_withConst hipfx (by simpa [hipfx, htpfx, field] using unadmitted))
  | trapvAndConst f k field accepts =>
    cases hipfx : s.ipfx with
    | none => simp [hipfx, accepts] at unadmitted
    | some p => exact refuses_withConst hipfx (by simpa [hipfx, field, accepts] using unadmitted)

end Sys2Proof.Machine

namespace Sys2Proof.Machine

/-! ### Flags and conditions -/

section
variable (a b : Word)

/-- The flag vector N:V:C:Z. -/
def flagVector (n v c z : Bool) : BitVec 4 := BitVec.ofBool n ++ BitVec.ofBool v ++ BitVec.ofBool c ++ BitVec.ofBool z

theorem flagN_flagVector : ∀ n v c z, flagN (flagVector n v c z) = n := by decide
theorem flagV_flagVector : ∀ n v c z, flagV (flagVector n v c z) = v := by decide
theorem flagC_flagVector : ∀ n v c z, flagC (flagVector n v c z) = c := by decide
theorem flagZ_flagVector : ∀ n v c z, flagZ (flagVector n v c z) = z := by decide

theorem flagN_flagsSub : flagN (flagsSub a b) = (a - b).msb := flagN_flagVector ..

/-- V is set where the signs of the operands differ and the sign of the difference is not that of the first. -/
theorem flagV_flagsSub_eq_msb : flagV (flagsSub a b) = (a.msb != b.msb && (a - b).msb != a.msb) := flagV_flagVector ..

theorem flagC_flagsSub : flagC (flagsSub a b) = decide (a.toNat < b.toNat) := flagC_flagVector ..

theorem flagZ_flagsSub : flagZ (flagsSub a b) = decide (a = b) := by
  have zero : (a - b = 0#64) = (a = b) := by simp [BitVec.sub_eq_iff_eq_add]
  simp only [← zero]
  exact flagZ_flagVector ..

/-- The difference of two words as a signed number: the exact one, or, where that does not fit, 2^64 away from it, on the
other side of zero. -/
theorem toInt_sub_cases :
    (a - b).toInt = a.toInt - b.toInt ∨
    (0 ≤ a.toInt ∧ b.toInt < 0 ∧ (a - b).toInt < 0 ∧ (a - b).toInt = a.toInt - b.toInt - 2 ^ 64) ∨
    (a.toInt < 0 ∧ 0 ≤ b.toInt ∧ 0 ≤ (a - b).toInt ∧ (a - b).toInt = a.toInt - b.toInt + 2 ^ 64) := by
  have := a.toInt_lt; have := a.le_toInt; have := b.toInt_lt; have := b.le_toInt
  rw [BitVec.toInt_sub, Int.bmod_def]
  omega

/-- V says that the exact signed difference does not fit 64 bits (R200; D7). -/
theorem flagV_flagsSub : flagV (flagsSub a b) = decide ((a - b).toInt ≠ a.toInt - b.toInt) := by
  rw [flagV_flagsSub_eq_msb, Bool.eq_iff_iff]
  simp only [BitVec.msb_eq_toInt, Bool.and_eq_true, bne_iff_ne, ne_eq, decide_eq_decide, decide_eq_true_eq]
  rcases toInt_sub_cases a b with exact | ⟨ha, hb, hr, wrapped⟩ | ⟨ha, hb, hr, wrapped⟩ <;> omega

/-- N and V differ exactly if the first operand is less (R201: LT). -/
theorem flagN_ne_flagV : (flagN (flagsSub a b) != flagV (flagsSub a b)) = decide (a.toInt < b.toInt) := by
  rw [flagN_flagsSub, flagV_flagsSub, Bool.eq_iff_iff]
  simp only [BitVec.msb_eq_toInt, bne_iff_ne, ne_eq, decide_eq_decide, decide_eq_true_eq]
  rcases toInt_sub_cases a b with exact | ⟨ha, hb, hr, wrapped⟩ | ⟨ha, hb, hr, wrapped⟩ <;> omega

end

/-- Settles O21: one lemma per flag. -/
theorem flagsOfSubtraction : Obligations.FlagsOfSubtraction := by
  intro a b
  simp [flagN_flagsSub, flagZ_flagsSub, flagC_flagsSub, flagV_flagsSub]

/-- Settles O22: each condition is a combination of the flags, read by the lemmas about them. -/
theorem conditionsCompareOperands : Obligations.ConditionsCompareOperands := by
  intro a b
  have lt := flagN_ne_flagV a b
  have ge : (flagN (flagsSub a b) == flagV (flagsSub a b)) = !decide (a.toInt < b.toInt) := by
    rw [← lt, bne, Bool.not_not]
  have eqInt : a = b ↔ a.toInt = b.toInt := BitVec.toInt_inj.symm
  have eqNat : a = b ↔ a.toNat = b.toNat := BitVec.toNat_inj.symm
  refine ⟨?eq, ?ne, ?vs, ?vc, ?mi, ?pl, rfl, rfl, ?gt, ?le, ?ge, ?lt, ?hi, ?ls, ?hs, ?lo⟩
  case eq | ne => simp [condHolds, flagZ_flagsSub]
  case vs | vc => simp [condHolds, flagV_flagsSub]
  case mi | pl => simp [condHolds, flagN_flagsSub]
  case gt =>
    simp only [condHolds, flagZ_flagsSub, ge, eqInt, Bool.and_eq_true, Bool.not_eq_true', decide_eq_false_iff_not]
    omega
  case le =>
    simp only [condHolds, flagZ_flagsSub, lt, eqInt, Bool.or_eq_true, decide_eq_true_eq]
    omega
  case ge => simp [condHolds, ge]
  case lt => simp [condHolds, lt]
  case hi =>
    simp only [condHolds, flagC_flagsSub, flagZ_flagsSub, eqNat, Bool.and_eq_true, Bool.not_eq_true',
      decide_eq_false_iff_not]
    omega
  case ls =>
    simp only [condHolds, flagC_flagsSub, flagZ_flagsSub, eqNat, Bool.or_eq_true, decide_eq_true_eq]
    omega
  case hs | lo => simp [condHolds, flagC_flagsSub]

/-! ### The constant K -/

/-- Settles O23: sign extension keeps the number, and P above a field of `w` bits counts 2^w each. -/
theorem constantFormation : Obligations.ConstantFormation := by
  intro w f
  refine ⟨fun narrow => ⟨_, rfl, BitVec.toInt_signExtend_of_le narrow⟩, fun p fits => ?_, fun p wide => ?_⟩
  · have nonempty : (p.bits == 0) = false := by cases p <;> rfl
    refine ⟨(p.value ++ f).signExtend 64, if_pos fits, ?_⟩
    rw [BitVec.toInt_signExtend_of_le fits, BitVec.toInt_append, nonempty, Int.mul_comm]
    rfl
  · exact if_neg (by omega)

/-! ### Memory -/

/-- Where a canonical memory reads as something listed, its lower bound has been reached. -/
theorem Memory.le_of_read_ne {lo a : Nat} {m : Memory} (h : Memory.wfFrom lo m = true)
    (listed : Memory.read m a ≠ Memory.unlisted) : lo ≤ a := by
  by_contra below
  exact listed (Memory.read_below h (by omega))

/-- The first cell of a canonical memory. -/
theorem Memory.wfFrom_cell {lo a : Nat} {v : Byte} {m : Memory} (h : Memory.wfFrom lo ((a, v) :: m) = true) :
    a < 2 ^ 64 ∧ v ≠ Memory.unlisted ∧ Memory.wfFrom (a + 1) m = true ∧ Memory.wfFrom a ((a, v) :: m) = true := by
  simp only [Memory.wfFrom, Bool.and_eq_true, decide_eq_true_eq, bne_iff_ne] at h ⊢
  obtain ⟨⟨⟨_, inside⟩, listed⟩, above⟩ := h
  exact ⟨inside, listed, above, ⟨⟨⟨le_refl a, inside⟩, listed⟩, above⟩⟩

/-- Canonical memories that read the same are equal: their first cells stand at the same address, each being the first place at
which the other reads as something listed. -/
theorem Memory.ext_of_wfFrom {lo lo' : Nat} {m m' : Memory} (h : Memory.wfFrom lo m = true)
    (h' : Memory.wfFrom lo' m' = true) (same : ∀ a < 2 ^ 64, Memory.read m a = Memory.read m' a) : m = m' := by
  induction m generalizing lo lo' m' with
  | nil =>
    cases m' with
    | nil => rfl
    | cons c' m' =>
      obtain ⟨b, w⟩ := c'
      obtain ⟨inside, listed, _, _⟩ := Memory.wfFrom_cell h'
      exact absurd (by simpa [Memory.read] using (same b inside).symm) listed
  | cons c m ih =>
    obtain ⟨a, v⟩ := c
    obtain ⟨inside, listed, above, here⟩ := Memory.wfFrom_cell h
    have first : Memory.read m' a = v := by simpa [Memory.read] using (same a inside).symm
    cases m' with
    | nil => exact absurd first.symm listed
    | cons c' m' =>
      obtain ⟨b, w⟩ := c'
      obtain ⟨inside', listed', above', here'⟩ := Memory.wfFrom_cell h'
      have first' : Memory.read ((a, v) :: m) b = w := by simpa [Memory.read] using same b inside'
      have b_le_a : b ≤ a := Memory.le_of_read_ne here' (by rwa [first])
      have a_le_b : a ≤ b := Memory.le_of_read_ne here (by rwa [first'])
      obtain rfl : a = b := by omega
      obtain rfl : w = v := by simpa [Memory.read] using first
      refine congrArg _ (ih above above' fun c hc => ?_)
      by_cases atCell : c = a
      · rw [Memory.read_below above (by omega), Memory.read_below above' (by omega)]
      · simpa [Memory.read, atCell] using same c hc

/-- Settles O24. -/
theorem memoryIsExtensional : Obligations.MemoryIsExtensional := fun _ _ h h' same => Memory.ext_of_wfFrom h h' same

/-- Numbers of `n` bytes that agree in every byte are equal. -/
theorem eq_of_bytes_eq {n : Nat} {x y : BitVec (8 * n)}
    (h : ∀ k < n, x.extractLsb' (8 * k) 8 = y.extractLsb' (8 * k) 8) : x = y := by
  apply BitVec.eq_of_getLsbD_eq
  intro j hj
  have byte := congrArg (·.getLsbD (j % 8)) (h (j / 8) (by omega))
  simpa [Nat.mod_lt, Nat.div_add_mod] using byte

/-- What is written at an address is read back at it. -/
theorem Memory.readLE_writeLE {m : Memory} (wf : Memory.wf m = true) (a : Word) {n : Nat} (hn : n ≤ 8)
    (v : BitVec (8 * n)) : Memory.readLE (Memory.writeLE m a n v) a n = v := by
  refine eq_of_bytes_eq fun k hk => ?_
  have back : a + BitVec.ofNat 64 k - a = BitVec.ofNat 64 k := by rw [BitVec.add_comm, BitVec.add_sub_cancel]
  have small : (BitVec.ofNat 64 k).toNat = k := Nat.mod_eq_of_lt (by omega)
  rw [Memory.extractLsb'_readLE _ a n k hk, Memory.read_writeLE wf a _ n (by omega), back, small, if_pos hk]

/-- Settles O25. -/
theorem writtenValueIsReadBack : Obligations.WrittenValueIsReadBack := fun _ a n v wf hn =>
  ⟨Memory.readLE_writeLE wf a hn v, Memory.wf_writeLE wf a n v⟩

end Sys2Proof.Machine

namespace Sys2Proof.Machine

/-! ### How the families complete -/

section
variable {s : State} {P : State → Prop} {rt ra : RegNum}

theorem completes_noPrefixes {k : Out} (h : NoPrefix s) (hk : Completes k P) : Completes (noPrefixes s k) P := by
  obtain ⟨hipfx, htpfx⟩ := h
  rwa [noPrefixes_of_none k hipfx htpfx]

/-- The end of an instruction whose one effect is to write a general register. -/
theorem completes_result (s : State) (rt : RegNum) (v len : Word) :
    Completes (.next (s.result rt v len)) (OnlyReg rt v (s.pc + len) s) :=
  completes_next (onlyReg_result s rt v len)

/-- The constant K is formed and no TRAPV is pending: an instruction that asks for both goes on with K. -/
theorem noTrapv_withConst {w : Nat} {f : BitVec w} {k : Word} (htpfx : s.tpfx = false) (hk : immConst s.ipfx f = some k)
    (g : Word → Out) : noTrapv s (withConst f s g) = g k := by
  rw [noTrapv_of_false _ htpfx, withConst_of_some _ hk]

section
variable {imm : BitVec 8} {k : Word} (htpfx : s.tpfx = false) (hk : immConst s.ipfx imm = some k)
include htpfx hk

theorem completes_riOp (f : Word → Word → Word) (rt ra : RegNum) :
    Completes (riOp f rt ra imm s) (OnlyReg rt (f (s.reg ra) k) (s.pc + 4#64) s) := by
  unfold riOp
  rw [noTrapv_withConst htpfx hk]
  exact completes_result ..

theorem divOp_of_corner {corner : Word → Word → Bool} (f : Word → Word → Word) (rt : RegNum)
    (h : corner (s.reg ra) k = true) : divOp corner f rt ra imm s = .refused .divisionCorner := by
  unfold divOp
  rw [noTrapv_withConst htpfx hk, if_pos h]

theorem completes_divOp {corner : Word → Word → Bool} (f : Word → Word → Word) (rt : RegNum)
    (h : corner (s.reg ra) k = false) :
    Completes (divOp corner f rt ra imm s) (OnlyReg rt (f (s.reg ra) k) (s.pc + 4#64) s) := by
  unfold divOp
  rw [noTrapv_withConst htpfx hk, if_neg (by simp [h])]
  exact completes_result ..

end

/-- The sum is written where no TRAPV is pending, or the sum does not overflow. -/
theorem completes_addOp {a b len : Word} (rt : RegNum) (h : s.tpfx = false ∨ addOverflows a b = false) :
    Completes (addOp rt a b len s) (OnlyReg rt (a + b) (s.pc + len) s) := by
  rcases addOp_cases rt a b len s with ⟨trapv, overflow, _⟩ | ⟨_, e⟩
  · simp [trapv, overflow] at h
  · rw [e]
    exact completes_result ..

theorem addOp_raises {a b len : Word} (rt : RegNum) (trapv : s.tpfx = true) (overflow : addOverflows a b = true) :
    Raises .overflow s.pc s (addOp rt a b len s) := by
  unfold addOp
  rw [trapv, overflow]
  exact raises ..

end

/-! ### Compare and test -/

theorem completes_compareOp {s : State} (h : NoPrefix s) (ft : FlagNum) (a b len : Word) :
    Completes (compareOp ft a b len s) (OnlyFlag ft (flagsSub a b) (s.pc + len) s) :=
  completes_noPrefixes h (completes_next (onlyFlag_finish s ft (flagsSub a b) len))

/-- Settles O26. -/
theorem compareAndTest : Obligations.CompareAndTest := fun _ _ _ _ _ h =>
  ⟨completes_compareOp h .., completes_compareOp h .., completes_compareOp h ..⟩

/-! ### Addition -/

/-- Signed overflow of a sum: the exact sum does not fit 64 bits (R256). -/
theorem addOverflows_eq (a b : Word) : addOverflows a b = decide (a.toInt + b.toInt ≠ (a + b).toInt) := by
  have := a.toInt_lt; have := a.le_toInt; have := b.toInt_lt; have := b.le_toInt
  unfold addOverflows
  rw [BitVec.msb_eq_toInt, BitVec.msb_eq_toInt, BitVec.msb_eq_toInt, BitVec.toInt_add, Int.bmod_def, Bool.eq_iff_iff]
  simp only [Bool.and_eq_true, beq_iff_eq, bne_iff_ne, ne_eq, decide_eq_decide, decide_eq_true_eq]
  omega

/-- Settles O29. -/
theorem addWraps : Obligations.AddWraps := by
  intro rt ra rb imm s htpfx
  refine ⟨fun hipfx => ?reg, fun k hk => ?imm⟩
  case reg =>
    change Completes (noImmPrefix s _) _
    rw [noImmPrefix_of_none _ hipfx]
    exact completes_addOp rt (.inl htpfx)
  case imm =>
    change Completes (withConst imm s _) _
    rw [withConst_of_some _ hk]
    exact completes_addOp rt (.inl htpfx)

/-- Settles O30: the sum fits 64 bits exactly if `addOverflows` says that it does not overflow (`addOverflows_eq`). -/
theorem addUnderTrapv : Obligations.AddUnderTrapv := by
  intro rt ra rb imm s htpfx
  have outcome : ∀ a b len : Word,
      (a.toInt + b.toInt = (a + b).toInt → Completes (addOp rt a b len s) (OnlyReg rt (a + b) (s.pc + len) s)) ∧
      (a.toInt + b.toInt ≠ (a + b).toInt → Raises .overflow s.pc s (addOp rt a b len s)) := fun a b len =>
    ⟨fun fits => completes_addOp rt (.inr ((addOverflows_eq a b).trans (decide_eq_false (not_not.2 fits)))),
      fun wraps => addOp_raises rt htpfx ((addOverflows_eq a b).trans (decide_eq_true wraps))⟩
  refine ⟨fun hipfx => ?reg, fun k hk => ?imm⟩
  case reg =>
    have runs : exec (.addR rt ra rb) s = addOp rt (s.reg ra) (s.reg rb) 5#64 s := noImmPrefix_of_none _ hipfx
    rw [runs]
    exact outcome ..
  case imm =>
    have runs : exec (.addI rt ra imm) s = addOp rt (s.reg ra) k 4#64 s := withConst_of_some _ hk
    rw [runs]
    exact outcome ..

/-! ### Arithmetic and logic with a constant -/

/-- Settles O31: the product modulo 2^64 is the same for signed and unsigned factors. -/
theorem immediateArithmetic : Obligations.ImmediateArithmetic := by
  intro rt ra imm s k htpfx hk
  rw [BitVec.ofInt_mul, BitVec.ofInt_toInt, BitVec.ofInt_toInt, BitVec.ofNat_mul, BitVec.ofNat_toNat, BitVec.ofNat_toNat,
    BitVec.setWidth_eq, BitVec.setWidth_eq]
  exact ⟨completes_riOp htpfx hk _ rt ra, completes_riOp htpfx hk _ rt ra, completes_riOp htpfx hk _ rt ra,
    completes_riOp htpfx hk _ rt ra, completes_riOp htpfx hk _ rt ra, completes_riOp htpfx hk _ rt ra⟩

/-- The operands on which signed division is refused, as numbers. -/
theorem signedCorner_iff (a b : Word) : signedCorner a b = true ↔ b = 0#64 ∨ a.toInt = -2 ^ 63 ∧ b.toInt = -1 := by
  have least : a = 0x8000000000000000#64 ↔ a.toInt = -2 ^ 63 := BitVec.toInt_inj.symm
  have minusOne : b = 0xFFFFFFFFFFFFFFFF#64 ↔ b.toInt = -1 := BitVec.toInt_inj.symm
  rw [← least, ← minusOne]
  simp [signedCorner]

theorem signedQuotient_eq_sdiv (a b : Word) : signedQuotient a b = a.sdiv b := by
  apply BitVec.eq_of_toInt_eq
  rw [signedQuotient, BitVec.toInt_ofInt, BitVec.toInt_sdiv]

theorem signedRemainder_eq_srem (a b : Word) : signedRemainder a b = a.srem b := by
  apply BitVec.eq_of_toInt_eq
  rw [signedRemainder, Int.mul_comm, ← Int.tmod_def, ← BitVec.toInt_srem, BitVec.ofInt_toInt]

/-- Off the refused corners the quotient is the exact one. -/
theorem toInt_signedQuotient {a b : Word} (h : ¬(a.toInt = -2 ^ 63 ∧ b.toInt = -1)) :
    (signedQuotient a b).toInt = a.toInt.tdiv b.toInt := by
  rw [signedQuotient_eq_sdiv]
  refine BitVec.toInt_sdiv_of_ne_or_ne a b (not_and_or.1 fun ⟨least, minusOne⟩ => h ?_)
  rw [least, minusOne]
  decide

theorem toInt_signedRemainder (a b : Word) : (signedRemainder a b).toInt = a.toInt.tmod b.toInt := by
  rw [signedRemainder_eq_srem, BitVec.toInt_srem]

/-- Settles O32: the quotient is `Int.tdiv`, the remainder `Int.tmod`. -/
theorem signedDivision : Obligations.SignedDivision := by
  intro rt ra imm s k htpfx hk
  refine ⟨fun corner => ?refused, fun nonzero notCorner => ?completes⟩
  case refused =>
    have h := (signedCorner_iff (s.reg ra) k).2 corner
    exact ⟨divOp_of_corner htpfx hk _ rt h, divOp_of_corner htpfx hk _ rt h⟩
  case completes =>
    have h : signedCorner (s.reg ra) k = false :=
      Bool.eq_false_iff.2 fun corner => ((signedCorner_iff _ _).1 corner).elim nonzero notCorner
    have divisor : k.toInt ≠ 0 := fun e => nonzero (BitVec.eq_of_toInt_eq e)
    refine ⟨signedQuotient (s.reg ra) k, signedRemainder (s.reg ra) k, ?_, ?_, ?_, ?_,
      completes_divOp htpfx hk _ rt h, completes_divOp htpfx hk _ rt h⟩
    · rw [toInt_signedQuotient notCorner, toInt_signedRemainder, Int.mul_comm, Int.mul_tdiv_add_tmod]
    · rw [toInt_signedRemainder, Int.natAbs_tmod]
      exact Nat.mod_lt _ (Int.natAbs_pos.2 divisor)
    · rw [toInt_signedRemainder]
      exact Int.tmod_nonneg _
    · rw [toInt_signedRemainder]
      intro nonpositive
      have opposite := Int.tmod_nonneg k.toInt (Int.neg_nonneg_of_nonpos nonpositive)
      rwa [Int.neg_tmod, Int.neg_nonneg] at opposite

theorem toNat_unsignedQuotient (a b : Word) : (unsignedQuotient a b).toNat = a.toNat / b.toNat :=
  Nat.mod_eq_of_lt (Nat.lt_of_le_of_lt (Nat.div_le_self _ _) a.isLt)

theorem toNat_unsignedRemainder (a b : Word) : (unsignedRemainder a b).toNat = a.toNat % b.toNat :=
  Nat.mod_eq_of_lt (Nat.lt_of_le_of_lt (Nat.mod_le _ _) a.isLt)

/-- Settles O33: the quotient and the remainder are those of the natural numbers. -/
theorem unsignedDivision : Obligations.UnsignedDivision := by
  intro rt ra imm s k htpfx hk
  refine ⟨fun zero => ?refused, fun nonzero => ?completes⟩
  case refused =>
    have h : unsignedCorner (s.reg ra) k = true := by simp [unsignedCorner, zero]
    exact ⟨divOp_of_corner htpfx hk _ rt h, divOp_of_corner htpfx hk _ rt h⟩
  case completes =>
    have h : unsignedCorner (s.reg ra) k = false := by simpa [unsignedCorner] using nonzero
    have divisor : 0 < k.toNat := Nat.pos_of_ne_zero fun e => nonzero (BitVec.eq_of_toNat_eq e)
    refine ⟨unsignedQuotient (s.reg ra) k, unsignedRemainder (s.reg ra) k, ?_, ?_,
      completes_divOp htpfx hk _ rt h, completes_divOp htpfx hk _ rt h⟩
    · rw [toNat_unsignedQuotient, toNat_unsignedRemainder, Nat.mul_comm, Nat.div_add_mod]
    · rw [toNat_unsignedRemainder]
      exact Nat.mod_lt _ divisor

/-- A set instruction writes 1 where its comparison holds and 0 where it does not. -/
theorem completes_set {s : State} {imm : BitVec 8} {k : Word} (htpfx : s.tpfx = false) (hk : immConst s.ipfx imm = some k)
    (rt ra : RegNum) {test : Word → Word → Bool} {p : Prop} (h : test (s.reg ra) k = true ↔ p) :
    (p → Completes (riOp (fun a c => setValue (test a c)) rt ra imm s) (OnlyReg rt 1#64 (s.pc + 4#64) s)) ∧
    (¬p → Completes (riOp (fun a c => setValue (test a c)) rt ra imm s) (OnlyReg rt 0#64 (s.pc + 4#64) s)) := by
  have completes := completes_riOp htpfx hk (fun a c => setValue (test a c)) rt ra
  rw [← h]
  cases hv : test (s.reg ra) k <;> simpa [hv, setValue] using completes

/-- Settles O34: the comparison that each of the ten makes. -/
theorem setInstructions : Obligations.SetInstructions := by
  intro rt ra imm s k htpfx hk
  refine ⟨?seq, ?sne, ?sgt, ?sle, ?sge, ?slt, ?shi, ?sls, ?shs, ?slo⟩
  case seq =>
    obtain ⟨h, _⟩ := conditionsCompareOperands (s.reg ra) k
    exact completes_set htpfx hk rt ra (test := fun a c => condHolds .eq (flagsSub a c)) h
  case sne => exact completes_set htpfx hk rt ra (test := fun a c => a != c) bne_iff_ne
  case sgt => exact completes_set htpfx hk rt ra (test := fun a c => decide (c.toInt < a.toInt)) decide_eq_true_iff
  case sle => exact completes_set htpfx hk rt ra (test := fun a c => decide (a.toInt ≤ c.toInt)) decide_eq_true_iff
  case sge => exact completes_set htpfx hk rt ra (test := fun a c => decide (c.toInt ≤ a.toInt)) decide_eq_true_iff
  case slt => exact completes_set htpfx hk rt ra (test := fun a c => decide (a.toInt < c.toInt)) decide_eq_true_iff
  case shi => exact completes_set htpfx hk rt ra (test := fun a c => decide (c.toNat < a.toNat)) decide_eq_true_iff
  case sls => exact completes_set htpfx hk rt ra (test := fun a c => decide (a.toNat ≤ c.toNat)) decide_eq_true_iff
  case shs => exact completes_set htpfx hk rt ra (test := fun a c => decide (c.toNat ≤ a.toNat)) decide_eq_true_iff
  case slo => exact completes_set htpfx hk rt ra (test := fun a c => decide (a.toNat < c.toNat)) decide_eq_true_iff

/-! ### Register shifts and rotates -/

theorem shiftAmount_eq (v : Word) : shiftAmount v = v.toNat % 64 := by
  simp [shiftAmount, BitVec.extractLsb'_toNat]

/-- Settles O36: the five functions of a word and an amount below 64, as numbers. -/
theorem shiftRegisters : Obligations.ShiftRegisters := by
  intro rt ra rb s h
  have amount : (s.reg rb).toNat % 64 % 64 = (s.reg rb).toNat % 64 := Nat.mod_mod _ _
  have leaves : ∀ {f : Word → Nat → Word} {v : Word}, f (s.reg ra) ((s.reg rb).toNat % 64) = v →
      Completes (shiftReg f rt ra rb s) (OnlyReg rt v (s.pc + 5#64) s) := fun {f v} hv => by
    have completes := completes_noPrefixes h (completes_result s rt (f (s.reg ra) (shiftAmount (s.reg rb))) 5#64)
    rw [shiftAmount_eq, hv] at completes
    unfold shiftReg
    rwa [shiftAmount_eq, hv]
  refine ⟨leaves ?shl, leaves ?shr, leaves ?asr, leaves ?rol, leaves ?ror⟩
  case shl =>
    apply BitVec.eq_of_toNat_eq
    rw [shl, BitVec.toNat_shiftLeft, Nat.shiftLeft_eq, BitVec.toNat_ofNat]
  case shr =>
    rw [shr, ← Nat.shiftRight_eq_div_pow, ← BitVec.toNat_ushiftRight, BitVec.ofNat_toNat, BitVec.setWidth_eq]
  case asr =>
    rw [asr, ← BitVec.ofInt_toInt (x := BitVec.sshiftRight _ _), BitVec.toInt_sshiftRight, Int.shiftRight_eq_div_pow]
    rfl
  case rol => rw [rol, BitVec.rotateLeft_def, amount]
  case ror => rw [ror, BitVec.rotateRight_def, amount]

end Sys2Proof.Machine

namespace Sys2Proof.Machine

/-! ### Branches -/

section
variable {s : State}

/-- What the statements call the PC of relative address formation: `State.pcrel`, by the two values of `PCREL_BASE` (R320). -/
theorem pcrel_eq (s : State) (len : Word) :
    s.pcrel len = if s.launch.pcrelBase = .nextInsn then s.pc + len else s.pc := by
  unfold State.pcrel
  cases s.launch.pcrelBase <;> rfl

/-- A branch moves to its target or past itself, and changes nothing else. -/
theorem completes_branch {w : Nat} (h : NoPrefix s) (taken : Bool) (len : Word) (disp : BitVec w) :
    Completes (noPrefixes s (.next (s.jump (s.branchPc taken len disp))))
      (OnlyPc (if taken then (if s.launch.pcrelBase = .nextInsn then s.pc + len else s.pc) + disp.signExtend 64
        else s.pc + len) s) := by
  rw [← pcrel_eq]
  exact completes_noPrefixes h (completes_next (onlyPc_jump s _))

/-- Settles O37: each of the sixteen is `completes_branch` at its condition. -/
theorem shortBranches : Obligations.ShortBranches := by
  intro fa disp s h n v c z base branches
  have branch : ∀ cond, Completes (shortBranch cond fa disp s)
      (OnlyPc (if condHolds cond (s.flag fa) then base + disp.signExtend 64 else s.pc + 2#64) s) :=
    fun cond => completes_branch h _ _ disp
  exact ⟨branch .eq, branch .ne, branch .vs, branch .vc, branch .mi, branch .pl, branch .ra, branch .nv, branch .gt,
    branch .le, branch .ge, branch .lt, branch .hi, branch .ls, branch .hs, branch .lo⟩

/-- Settles O38: as O37. -/
theorem longBranches : Obligations.LongBranches := by
  intro fa disp s h n v c z base branches
  have branch : ∀ cond, Completes (longBranch cond fa disp s)
      (OnlyPc (if condHolds cond (s.flag fa) then base + disp.signExtend 64 else s.pc + 3#64) s) :=
    fun cond => completes_branch h _ _ disp
  exact ⟨branch .eq, branch .ne, branch .vs, branch .vc, branch .mi, branch .pl, branch .ra, branch .nv, branch .gt,
    branch .le, branch .ge, branch .lt, branch .hi, branch .ls, branch .hs, branch .lo⟩

/-- A branch on a register's value is taken where its test holds. -/
theorem completes_regBranch (h : NoPrefix s) (ra : RegNum) (disp : BitVec 8) {test : Word → Bool} {p : Prop}
    (hp : test (s.reg ra) = true ↔ p) :
    (p → Completes (regBranch test ra disp s)
      (OnlyPc ((if s.launch.pcrelBase = .nextInsn then s.pc + 3#64 else s.pc) + disp.signExtend 64) s)) ∧
    (¬p → Completes (regBranch test ra disp s) (OnlyPc (s.pc + 3#64) s)) := by
  have branch := completes_branch h (test (s.reg ra)) 3#64 disp
  unfold regBranch
  rw [← hp]
  refine ⟨fun taken => ?_, fun through => ?_⟩
  · rwa [if_pos taken] at branch
  · rwa [if_neg through] at branch

/-- Settles O39. -/
theorem registerBranches : Obligations.RegisterBranches := by
  intro ra disp s h
  refine ⟨?brz, ?brnz, ?brmi, ?brpl⟩
  case brz => exact completes_regBranch h ra disp (test := fun v => v == 0#64) beq_iff_eq
  case brnz => exact completes_regBranch h ra disp (test := fun v => v != 0#64) bne_iff_ne
  case brmi => exact completes_regBranch h ra disp (test := fun v => v.msb) (by simp [BitVec.msb_eq_toInt])
  case brpl => exact completes_regBranch h ra disp (test := fun v => !v.msb) (by simp [BitVec.msb_eq_toInt])

/-- Settles O40: with Ra = 0 the new value is -1 and the write is dropped. -/
theorem decrementAndBranch : Obligations.DecrementAndBranch := by
  intro ra disp s h base
  have runs : ∀ (r : RegNum) (taken : Bool), (s.reg r - 1#64 != 0#64) = taken →
      Completes (exec (.dbnz r disp) s)
        (OnlyReg r (s.reg r - 1#64) (if taken then base + disp.signExtend 64 else s.pc + 3#64) s) := by
    rintro r taken rfl
    have frame := onlyReg_jump s r (s.reg r - 1#64) (s.branchPc (s.reg r - 1#64 != 0#64) 3#64 disp)
    have target : s.branchPc (s.reg r - 1#64 != 0#64) 3#64 disp =
        if (s.reg r - 1#64 != 0#64) = true then base + disp.signExtend 64 else s.pc + 3#64 := by
      unfold State.branchPc State.branchTarget
      rw [pcrel_eq]
    rw [← target]
    exact completes_noPrefixes h (completes_next frame)
  refine ⟨fun left => ?taken, fun last => ?through, ?always⟩
  case taken => exact runs ra true (by simpa [BitVec.sub_eq_iff_eq_add] using left)
  case through =>
    have completes := runs ra false (by simp [last])
    rwa [last] at completes
  case always =>
    obtain ⟨t, ran, frame⟩ := runs 0#8 true (by rw [reg_zero]; decide)
    obtain ⟨others, _⟩ := frame.regs
    refine ⟨t, ran, { frame with regs := fun r => ?_ }⟩
    by_cases zero : r = 0#8
    · rw [zero, reg_zero, reg_zero]
    · exact others r zero

/-! ### Jumps -/

theorem completes_jumpAndLink (h : NoPrefix s) (bd : CaNum) (target len : Word) :
    Completes (jumpAndLink bd target len s) (OnlyCa bd (s.pc + len) target s) :=
  completes_noPrefixes h (completes_next (onlyCa_jump s bd (s.pc + len) target))

/-- The base of a jump (R37, R38, R359). -/
theorem caReg_eq (s : State) (bs : CaNum) (len : Word) :
    s.caReg len bs = if bs = 0#4 then 0#64
      else if bs = 15#4 then (if s.launch.pcrelBase = .nextInsn then s.pc + len else s.pc)
      else s.caReg 0#64 bs := by
  by_cases zero : bs = 0#4
  · rw [if_pos zero, zero, caReg_zero]
  · by_cases pc : bs = 15#4
    · rw [if_neg zero, if_pos pc, pc, caReg_fifteen, pcrel_eq]
    · rw [if_neg zero, if_neg pc, caReg_congr rfl len 0#64 bs pc]

/-- Settles O41. -/
theorem jumpAndLinkInstructions : Obligations.JumpAndLink := by
  intro bd bs disp s h base
  have baseIs : ∀ len, s.caReg len bs = base len := caReg_eq s bs
  rw [← baseIs, ← baseIs]
  exact ⟨completes_jumpAndLink h .., completes_jumpAndLink h ..⟩

theorem completes_execRet (h : NoPrefix s) : Completes (exec .ret s) (OnlyPc (s.caReg 0#64 1#4) s) :=
  completes_noPrefixes h (completes_next (onlyPc_jump s _))

/-- Settles O42: JALR CA1 leaves its link in CA1, and neither IMMn nor TRAPV pending. -/
theorem returnFromSubroutine : Obligations.ReturnFromSubroutine := by
  intro s h
  refine ⟨completes_execRet h, fun bs t called => ?_⟩
  obtain ⟨t', called', frame⟩ := completes_jumpAndLink h 1#4 (s.caReg 2#64 bs) 2#64
  obtain rfl : t' = t := Host.Outcome.next.inj (called'.symm.trans called)
  have link : t'.caReg 0#64 1#4 = s.pc + 2#64 := frame.ca 1#4 0#64 (by decide)
  rw [← link]
  exact completes_execRet ⟨frame.ends.ipfx, frame.ends.tpfx⟩

end

end Sys2Proof.Machine

namespace Sys2Proof.Machine

/-! ### The values in memory -/

/-- Bit `j` of a number in memory is bit `j % 8` of its byte `j / 8`. -/
theorem getLsbD_readLE (m : Memory) (a : Word) {n j : Nat} (hj : j < 8 * n) :
    (Memory.readLE m a n).getLsbD j = (Memory.read m (nth a (j / 8)).toNat).getLsbD (j % 8) := by
  have byte := congrArg (·.getLsbD (j % 8)) (Memory.extractLsb'_readLE m a n (j / 8) (by omega))
  simpa [Nat.mod_lt, Nat.div_add_mod, nth] using byte

theorem nth_nth (a : Word) (j k : Nat) : nth (nth a j) k = nth a (j + k) := by
  simp only [nth, BitVec.ofNat_add, BitVec.add_assoc]

/-- A number of `j + k` bytes is the upper `k` bytes above the lower `j`. -/
theorem readLE_add (m : Memory) (a : Word) (j k : Nat) :
    Memory.readLE m a (j + k) = (Memory.readLE m (nth a j) k ++ Memory.readLE m a j).cast (by omega) := by
  apply BitVec.eq_of_getLsbD_eq
  intro i hi
  rw [getLsbD_readLE m a hi, BitVec.getLsbD_cast, BitVec.getLsbD_append]
  by_cases lower : i < 8 * j
  · rw [if_pos lower, getLsbD_readLE m a lower]
  · have byte : j + (i - 8 * j) / 8 = i / 8 := by omega
    have bit : (i - 8 * j) % 8 = i % 8 := by omega
    rw [if_neg lower, getLsbD_readLE m _ (by omega), nth_nth, byte, bit]

section
variable (s : State) (a : Word)

theorem readLE_one : Memory.readLE s.mem a 1 = s.byteAt a := by
  apply BitVec.eq_of_getLsbD_eq
  intro j hj
  have first : j / 8 = 0 := by omega
  have bit : j % 8 = j := by omega
  rw [getLsbD_readLE s.mem a hj, first, bit]
  simp [nth, State.byteAt]

theorem readLE_two : Memory.readLE s.mem a 2 = s.charAt a := by
  rw [readLE_add s.mem a 1 1, readLE_one, readLE_one]
  rfl

theorem readLE_four : Memory.readLE s.mem a 4 = s.halfAt a := by
  rw [readLE_add s.mem a 2 2, readLE_two, readLE_two]
  rfl

theorem readLE_eight : Memory.readLE s.mem a 8 = s.wordAt a := by
  rw [readLE_add s.mem a 4 4, readLE_four, readLE_four]
  rfl

end

/-! ### Accesses that are made and accesses that stop -/

section
variable {s : State} {a : Word} {n : Nat}

theorem memRead_of_accessible (h : Accessible s a n) (k : BitVec (8 * n) → Out) :
    memRead s a n k = k (Memory.readLE s.mem a n) := by
  simp [memRead, accessCheck_of_accessible h]

/-- Where a read raises. -/
theorem raises_memRead (k : BitVec (8 * n) → Out) :
    (MisalignedAt s a n → Raises .misaligned a s (memRead s a n k)) ∧
    (AbsentAt s a n → Raises .accessFault a s (memRead s a n k)) := by
  constructor <;> intro h
  · simpa only [memRead, accessCheck_of_misaligned h] using raises .misaligned a s
  · simpa only [memRead, accessCheck_of_absent h] using raises .accessFault a s

/-- Where a write raises, and where it is refused. -/
theorem stops_memWrite (v : BitVec (8 * n)) (k : State → Out) :
    ((MisalignedAt s a n → Raises .misaligned a s (memWrite s a n v k)) ∧
      (AbsentAt s a n → Raises .accessFault a s (memWrite s a n v k))) ∧
    (Accessible s a n → ¬NotText s a n → memWrite s a n v k = .refused .storeToText) := by
  refine ⟨⟨fun h => ?misaligned, fun h => ?absent⟩, fun h text => ?text⟩
  case misaligned => simpa only [memWrite, accessCheck_of_misaligned h] using raises .misaligned a s
  case absent => simpa only [memWrite, accessCheck_of_absent h] using raises .accessFault a s
  case text =>
    rw [← anyByte_isText_iff, Bool.not_eq_false] at text
    simp [memWrite, accessCheck_of_accessible h, text]

end

/-! ### Loads -/

section
variable {s : State} {ea : Word} (rt : RegNum)

theorem completes_loadSigned {n : Nat} (h : Accessible s ea n) :
    Completes (loadSigned n rt s ea) (OnlyReg rt ((Memory.readLE s.mem ea n).signExtend 64) (s.pc + 4#64) s) := by
  unfold loadSigned
  rw [memRead_of_accessible h]
  exact completes_result ..

theorem completes_loadUnsigned {n : Nat} (h : Accessible s ea n) :
    Completes (loadUnsigned n rt s ea) (OnlyReg rt ((Memory.readLE s.mem ea n).setWidth 64) (s.pc + 4#64) s) := by
  unfold loadUnsigned
  rw [memRead_of_accessible h]
  exact completes_result ..

/-- The loads of one, two and four bytes at an address, in both extensions, for the value `v` that stands there. -/
theorem completes_loads {n : Nat} {v : BitVec (8 * n)} (hv : Memory.readLE s.mem ea n = v) (h : Accessible s ea n) :
    Completes (loadSigned n rt s ea) (OnlyReg rt (v.signExtend 64) (s.pc + 4#64) s) ∧
    Completes (loadUnsigned n rt s ea) (OnlyReg rt (v.setWidth 64) (s.pc + 4#64) s) :=
  hv ▸ ⟨completes_loadSigned rt h, completes_loadUnsigned rt h⟩

theorem completes_loadWord (h : Accessible s ea 8) :
    Completes (loadSigned 8 rt s ea) (OnlyReg rt (s.wordAt ea) (s.pc + 4#64) s) := by
  have completes := completes_loadSigned rt h
  rwa [readLE_eight, BitVec.signExtend_eq] at completes

end

/-- The displacement form goes on at `x[Ra] + K` (R390). -/
theorem withDisp_of_const {s : State} {disp : BitVec 8} {k : Word} (htpfx : s.tpfx = false)
    (hk : immConst s.ipfx disp = some k) (ra : RegNum) (g : Word → Out) : withDisp ra disp s g = g (s.reg ra + k) :=
  noTrapv_withConst htpfx hk fun c => g (s.reg ra + c)

/-- The indexed form goes on at `x[Ra] + x[Rb] + K` (R391). -/
theorem withIndex_of_const {s : State} {k : Word} (htpfx : s.tpfx = false) (hk : immConst s.ipfx (0#0) = some k)
    (ra rb : RegNum) (g : Word → Out) : withIndex ra rb s g = g (s.reg ra + s.reg rb + k) :=
  noTrapv_withConst htpfx hk fun c => g (s.reg ra + s.reg rb + c)

/-- Settles O43. -/
theorem loads : Obligations.Loads := by
  intro rt ra disp s k htpfx hk
  have runs := withDisp_of_const htpfx hk ra
  simp only [exec, execLb, execLbu, execLc, execLcu, execLh, execLhu, execLw, runs]
  exact ⟨completes_loads rt (readLE_one s _), completes_loads rt (readLE_two s _), completes_loads rt (readLE_four s _),
    completes_loadWord rt⟩

/-- Settles O44: where no IMMn is pending the empty field is the constant 0. -/
theorem indexedLoads : Obligations.IndexedLoads := by
  intro rt ra rb s k htpfx hk
  have runs := withIndex_of_const htpfx hk ra rb
  simp only [exec, execLbx, execLbux, execLcx, execLcux, execLhx, execLhux, execLwx, runs]
  refine ⟨fun none => ?_, completes_loads rt (readLE_one s _), completes_loads rt (readLE_two s _),
    completes_loads rt (readLE_four s _), completes_loadWord rt⟩
  rw [none] at hk
  exact (Option.some.inj hk).symm

/-- Settles O45. -/
theorem loadEffectiveAddress : Obligations.LoadEffectiveAddress := by
  intro rt ra rb disp s htpfx
  refine ⟨fun k hk => ?lea, fun k hk => ?leax⟩
  case lea =>
    have runs : exec (.lea rt ra disp) s = loadAddress rt s _ := withDisp_of_const htpfx hk ra _
    rw [runs]
    exact completes_result ..
  case leax =>
    have runs : exec (.leax rt ra rb) s = loadAddress rt s _ := withIndex_of_const htpfx hk ra rb _
    rw [runs]
    exact completes_result ..

/-! ### Stores -/

theorem completes_store {s : State} {ea : Word} {n : Nat} (rs : RegNum) (hn : n ≤ 8) (h : Storable s ea n) :
    Completes (store n rs s ea) (OnlyBytes ea n (s.reg rs) (s.pc + 4#64) s) := by
  unfold store
  rw [memWrite_of_storable h]
  exact completes_next (onlyBytes_finish s ea (s.reg rs) n 4#64 hn h.canonical)

/-- Settles O47. -/
theorem stores : Obligations.Stores := by
  intro rs ra rb disp s htpfx
  refine ⟨fun k hk => ?disp, fun k hk => ?index⟩
  case disp =>
    simp only [exec, execSb, execSc, execSh, execSw, withDisp_of_const htpfx hk ra]
    exact ⟨completes_store rs (by decide), completes_store rs (by decide), completes_store rs (by decide),
      completes_store rs (by decide)⟩
  case index =>
    simp only [exec, execSbx, execScx, execShx, execSwx, withIndex_of_const htpfx hk ra rb]
    exact ⟨completes_store rs (by decide), completes_store rs (by decide), completes_store rs (by decide),
      completes_store rs (by decide)⟩

/-- Settles O46: a load is a read and a store a write at its address. -/
theorem loadsAndStoresStop : Obligations.LoadsAndStoresStop := by
  intro rt ra rb disp s htpfx
  refine ⟨fun k hk => ?disp, fun k hk => ?index⟩
  case disp =>
    simp only [exec, execLb, execLbu, execLc, execLcu, execLh, execLhu, execLw, execSb, execSc, execSh, execSw,
      withDisp_of_const htpfx hk ra]
    exact ⟨raises_memRead _, raises_memRead _, raises_memRead _, raises_memRead _, raises_memRead _, raises_memRead _,
      raises_memRead _, stops_memWrite _ _, stops_memWrite _ _, stops_memWrite _ _, stops_memWrite _ _⟩
  case index =>
    simp only [exec, execLbx, execLbux, execLcx, execLcux, execLhx, execLhux, execLwx, execSbx, execScx, execShx, execSwx,
      withIndex_of_const htpfx hk ra rb]
    exact ⟨raises_memRead _, raises_memRead _, raises_memRead _, raises_memRead _, raises_memRead _, raises_memRead _,
      raises_memRead _, stops_memWrite _ _, stops_memWrite _ _, stops_memWrite _ _, stops_memWrite _ _⟩

/-! ### Stack -/

section
variable {s : State}

/-- The end of an instruction that writes a register and memory. -/
theorem onlyRegAndBytes_finish (s : State) (rt : RegNum) (v a w len : Word) {n : Nat} (hn : n ≤ 8)
    (h : Memory.wf s.mem = true) : OnlyRegAndBytes rt v a n w (s.pc + len) s
      ((State.setReg { s with mem := Memory.writeLE s.mem a n (w.extractLsb' 0 (8 * n)) } rt v).finish len) where
  regs := by
    refine ⟨fun r hr => ?_, fun h => ?_⟩
    · rw [finish_reg, reg_setReg_ne _ _ _ _ hr]
      exact reg_congr rfl r
    · rw [finish_reg, reg_setReg_self _ _ _ h]
  ca c l hc := by
    rw [finish_caReg _ _ _ _ hc, setReg_caReg]
    exact caReg_congr rfl l l c hc
  flags j := by
    rw [finish_flag, setReg_flag]
    exact flag_congr rfl j
  bytes := writesBytes_writeLE hn h (by simp)
  sr := by simp
  ends := by constructor <;> simp

/-- A push that is made. -/
theorem completes_pushWord (v len : Word) (h : Storable s (s.sp - 8#64) 8) :
    Completes (pushWord v len s)
      (OnlyRegAndBytes s.launch.spReg (s.sp - 8#64) (s.sp - 8#64) 8 v (s.pc + len) s) := by
  have frame := onlyRegAndBytes_finish s s.launch.spReg (s.sp - 8#64) (s.sp - 8#64) v len (le_refl 8) h.canonical
  rw [BitVec.extractLsb'_eq_self] at frame
  unfold pushWord
  rw [memWrite_of_storable h]
  exact completes_next frame

/-- PUSH of a register that is not SP. -/
theorem exec_push {ra : RegNum} (h : NoPrefix s) (notSp : ra ≠ s.launch.spReg) :
    exec (.push ra) s = pushWord (s.reg ra) 2#64 s := by
  obtain ⟨hipfx, htpfx⟩ := h
  exact (noPrefixes_of_none _ hipfx htpfx).trans (if_neg notSp)

theorem exec_pushc {imm : BitVec 16} {k : Word} (htpfx : s.tpfx = false) (hk : immConst s.ipfx imm = some k) :
    exec (.pushc imm) s = pushWord k 3#64 s := noTrapv_withConst htpfx hk _

/-- POP into a register that is neither SP nor R0. -/
theorem exec_pop {rt : RegNum} (h : NoPrefix s) (notSp : rt ≠ s.launch.spReg) (notZero : rt ≠ 0#8) :
    exec (.pop rt) s =
      memRead s s.sp 8 fun v => .next (((s.setReg rt v).setSp (s.sp + 8#64)).finish 2#64) := by
  obtain ⟨hipfx, htpfx⟩ := h
  exact (noPrefixes_of_none _ hipfx htpfx).trans ((if_neg notSp).trans (if_neg notZero))

/-- Settles O48. -/
theorem pushes : Obligations.Pushes := by
  intro ra imm s htpfx h
  refine ⟨fun hipfx notSp => ?push, fun k hk => ?pushc⟩
  case push => exact exec_push ⟨hipfx, htpfx⟩ notSp ▸ completes_pushWord _ _ h
  case pushc => exact exec_pushc htpfx hk ▸ completes_pushWord _ _ h

/-- A POP that reads the stack. -/
theorem completes_exec_pop {rt : RegNum} (h : NoPrefix s) (notSp : rt ≠ s.launch.spReg) (sp : s.launch.spReg ≠ 0#8)
    (access : Accessible s s.sp 8) (notZero : rt ≠ 0#8) : Completes (exec (.pop rt) s) fun t =>
      t.reg rt = s.wordAt s.sp ∧ t.sp = s.sp + 8#64 ∧ (∀ r, r ≠ rt → r ≠ s.launch.spReg → t.reg r = s.reg r) ∧
      SameCa s t ∧ SameFlags s t ∧ SameBytes s t ∧ t.sr = s.sr ∧ EndsAt (s.pc + 2#64) s t := by
  have sp' : (s.setReg rt (s.wordAt s.sp)).launch.spReg ≠ 0#8 := by simpa using sp
  rw [exec_pop h notSp notZero, memRead_of_accessible access, readLE_eight]
  refine completes_next ⟨?target, ?sp, ?others, ?ca, ?flags, ?bytes, ?sr, ?ends⟩
  case target => rw [finish_reg, reg_setSp_ne _ _ (by simpa using notSp), reg_setReg_self _ _ _ notZero]
  case sp =>
    rw [finish_sp]
    simp [State.sp, State.setSp, sp]
  case others =>
    intro r notTarget notSp'
    rw [finish_reg, reg_setSp_ne _ _ (by simpa using notSp'), reg_setReg_ne _ _ _ _ notTarget]
  case ca => exact fun c len hc => by simp [State.setSp, hc]
  case flags => exact fun j => by simp [State.setSp]
  case bytes => exact fun b => by simp [State.setSp]
  case sr => simp
  case ends => constructor <;> simp [State.setSp]

/-- POP of R0 moves SP and reads nothing. -/
theorem completes_exec_pop_zero (h : NoPrefix s) (sp : s.launch.spReg ≠ 0#8) :
    Completes (exec (.pop 0#8) s) (OnlyReg s.launch.spReg (s.sp + 8#64) (s.pc + 2#64) s) := by
  obtain ⟨hipfx, htpfx⟩ := h
  have runs : exec (.pop 0#8) s = .next (s.result s.launch.spReg (s.sp + 8#64) 2#64) :=
    (noPrefixes_of_none _ hipfx htpfx).trans ((if_neg sp.symm).trans (if_pos rfl))
  rw [runs]
  exact completes_result ..

/-- Settles O49. -/
theorem popReadsTheStack : Obligations.PopReadsTheStack := fun _ _ h notSp sp =>
  ⟨completes_exec_pop h notSp sp, completes_exec_pop_zero h sp⟩

/-- Settles O50: a push is a write below SP, a POP a read at SP. -/
theorem stackStops : Obligations.StackStops := by
  intro r imm s htpfx
  refine ⟨fun hipfx notSp => ?push, fun k hk => ?pushc, fun hipfx notSp notZero => ?pop, fun hipfx => ⟨?ofSp, ?intoSp⟩⟩
  case push =>
    dsimp only
    rw [exec_push ⟨hipfx, htpfx⟩ notSp]
    exact stops_memWrite _ _
  case pushc =>
    dsimp only
    rw [exec_pushc htpfx hk]
    exact stops_memWrite _ _
  case pop =>
    dsimp only
    rw [exec_pop ⟨hipfx, htpfx⟩ notSp notZero]
    exact raises_memRead _
  case ofSp | intoSp => exact (noPrefixes_of_none _ hipfx htpfx).trans (if_pos rfl)

/-- The number that stands where the low bytes of `v` were written. -/
theorem readLE_of_writesBytes {t : State} {a v : Word} {n : Nat} (hn : n ≤ 8) (h : WritesBytes a n v s t) :
    Memory.readLE t.mem a n = v.extractLsb' 0 (8 * n) := by
  refine eq_of_bytes_eq fun k hk => ?_
  have back : nth a k - a = BitVec.ofNat 64 k := by rw [nth, BitVec.add_comm, BitVec.add_sub_cancel]
  have small : (BitVec.ofNat 64 k).toNat = k := Nat.mod_eq_of_lt (by omega)
  have byte := h (nth a k)
  rw [back, small, if_pos hk] at byte
  rw [Memory.extractLsb'_readLE _ a n k hk]
  refine byte.trans (BitVec.eq_of_getLsbD_eq fun j hj => ?_)
  have inside : 8 * k + j < 8 * n := by omega
  simp [hj, inside]

/-- Settles O51: the word read is the one written (`readLE_of_writesBytes`), and SP moves down by 8 and up again. -/
theorem pushThenPop : Obligations.PushThenPop := by
  intro ra rt s t h sp notSp notZero storable pushed
  have raNotSp : ra ≠ s.launch.spReg := by
    rintro rfl
    obtain ⟨hipfx, htpfx⟩ := h
    nomatch pushed.symm.trans ((noPrefixes_of_none _ hipfx htpfx).trans (if_pos rfl))
  rw [exec_push h raNotSp] at pushed
  obtain ⟨t', pushed', frame⟩ := completes_pushWord (s.reg ra) 2#64 storable
  obtain rfl : t' = t := Host.Outcome.next.inj (pushed'.symm.trans pushed)
  have launch : t'.launch = s.launch := frame.ends.launch
  obtain ⟨others, written⟩ := frame.regs
  have spThen : t'.sp = s.sp - 8#64 := by
    rw [State.sp, launch]
    exact written sp
  have access : Accessible t' t'.sp 8 := by
    rw [spThen]
    simpa [Accessible, MisalignedAt, State.present, launch] using storable.accessible
  have word : t'.wordAt t'.sp = s.reg ra := by
    rw [← readLE_eight, spThen, readLE_of_writesBytes (le_refl 8) frame.bytes, BitVec.extractLsb'_eq_self]
  obtain ⟨u, popped, target, spNow, kept, _, _, _, _, ends⟩ :=
    completes_exec_pop ⟨frame.ends.ipfx, frame.ends.tpfx⟩ (launch ▸ notSp) (launch ▸ sp) access notZero
  have spBack : u.sp = s.sp := by rw [spNow, spThen, BitVec.sub_add_cancel]
  refine ⟨u, popped, target.trans word, spBack, fun r notTarget => ?_⟩
  by_cases isSp : r = s.launch.spReg
  · rw [State.sp, State.sp, ends.launch, launch] at spBack
    rwa [isSp]
  · rw [kept r notTarget (launch ▸ isSp), others r isSp]

end

/-! ### Compare and swap -/

section
variable {s : State} {k : Word} (rt rb rc ra : RegNum) (htpfx : s.tpfx = false) (hk : immConst s.ipfx (0#0) = some k)
include htpfx hk

/-- CAS at an address that is no multiple of 8. -/
theorem exec_cas_misaligned (h : (s.reg ra + k).toNat % 8 ≠ 0) :
    exec (.cas rt rb rc ra) s = raise .misaligned (s.reg ra + k) s :=
  (noTrapv_withConst htpfx hk _).trans (if_pos h)

/-- CAS at a multiple of 8: the word is read, and written where it equals x[Rb]. -/
theorem exec_cas_aligned (h : (s.reg ra + k).toNat % 8 = 0) :
    exec (.cas rt rb rc ra) s = memRead s (s.reg ra + k) 8 fun old =>
      if old = s.reg rb then memWrite s (s.reg ra + k) 8 (s.reg rc) fun s' => .next (s'.result rt old 5#64)
      else .next (s.result rt old 5#64) :=
  (noTrapv_withConst htpfx hk _).trans (if_neg (not_not.2 h))

end

/-- Settles O52: where the word equals x[Rb] the rest of the CAS is a write, which is refused on program text. -/
theorem compareAndSwap : Obligations.CompareAndSwap := by
  intro rt rb rc ra s k htpfx hk ea aligned
  have read : Accessible s ea 8 → exec (.cas rt rb rc ra) s =
      if s.wordAt ea = s.reg rb then memWrite s ea 8 (s.reg rc) fun s' => .next (s'.result rt (s.wordAt ea) 5#64)
      else .next (s.result rt (s.wordAt ea) 5#64) := fun access => by
    rw [exec_cas_aligned rt rb rc ra htpfx hk aligned, memRead_of_accessible access, readLE_eight]
  refine ⟨fun storable equal => ?swap, fun access differs => ?noSwap, fun access equal text => ?refused⟩
  case swap =>
    have frame := onlyRegAndBytes_finish s rt (s.wordAt ea) ea (s.reg rc) 5#64 (le_refl 8) storable.canonical
    rw [BitVec.extractLsb'_eq_self] at frame
    rw [read storable.accessible, if_pos equal, memWrite_of_storable storable]
    exact completes_next frame
  case noSwap =>
    rw [read access, if_neg differs]
    exact completes_result ..
  case refused =>
    rw [read access, if_pos equal]
    exact (stops_memWrite _ _).2 access text

/-- Settles O53. -/
theorem compareAndSwapRaises : Obligations.CompareAndSwapRaises := by
  intro rt rb rc ra s k htpfx hk
  refine ⟨fun misaligned => ?_, fun aligned absent => ?_⟩
  · rw [exec_cas_misaligned rt rb rc ra htpfx hk misaligned]
    exact raises ..
  · rw [exec_cas_aligned rt rb rc ra htpfx hk aligned]
    exact (raises_memRead _).2 absent

end Sys2Proof.Machine

namespace Sys2Proof.Machine

/-! ### Reset -/

/-- Settles O1: each clause is a field of `State.reset`. -/
theorem resetLeaves : Obligations.ResetLeaves :=
  ⟨reg_zero _, fun _ => caReg_zero _ _, ⟨rfl, rfl⟩, rfl, rfl, rfl, rfl⟩

/-- Settles O2: the empty memory is canonical, and the launch has one region, all of the address space, and no text. -/
theorem resetSatisfiesInvariant : Obligations.ResetSatisfiesInvariant where
  memory := rfl
  launch := by decide

/-! ### BRK and the undescribed instructions -/

/-- Settles O56. -/
theorem breakRaises : Obligations.BreakRaises := by
  refine ⟨refusesPrefixes_of_noPrefixes fun _ => rfl, fun s ⟨hipfx, htpfx⟩ => ?_⟩
  have runs : exec .brk s = raise .brk s.pc s := noPrefixes_of_none _ hipfx htpfx
  rw [runs]
  exact raises ..

/-- A meaning that is a refusal after the check for prefixes is refused in every state. -/
theorem refuses_noPrefixes_refused (s : State) (r : Refusal) : Refuses (noPrefixes s (.refused r)) := by
  rcases noPrefixes_cases s (.refused r) with ⟨_, _, e⟩ | ⟨_, refused⟩
  · exact ⟨r, e⟩
  · exact refused

/-- Settles O59. -/
theorem undescribedInstructionsAreRefused : Obligations.UndescribedInstructionsAreRefused := fun s =>
  ⟨refuses_noPrefixes_refused s _, refuses_noPrefixes_refused s _, refuses_noPrefixes_refused s _, fun ⟨hipfx, htpfx⟩ =>
    ⟨noPrefixes_of_none _ hipfx htpfx, noPrefixes_of_none _ hipfx htpfx, noPrefixes_of_none _ hipfx htpfx⟩⟩

/-! ### Prefixes -/

section
variable {s t : State}

/-- The pending prefixes are `p` and `v`, the pc has moved on by `len`, and nothing else has changed. -/
abbrev OnlyPrefixes (p : Option ImmPrefix) (v : Bool) (len : Word) (s t : State) : Prop :=
  t.ipfx = p ∧ t.tpfx = v ∧ t.pc = s.pc + len ∧ SameRegs s t ∧ SameCa s t ∧ SameFlags s t ∧ SameBytes s t ∧
  t.sr = s.sr ∧ t.irqPending = s.irqPending ∧ t.launch = s.launch

theorem onlyPrefixes_withPrefixes (s : State) (p : Option ImmPrefix) (v : Bool) (len : Word) :
    OnlyPrefixes p v len s (s.withPrefixes p v len) := by
  have sameCa : (s.withPrefixes p v len).ca = s.ca := rfl
  exact ⟨rfl, rfl, rfl, reg_congr rfl, fun c l hc => caReg_congr sameCa l l c hc, flag_congr rfl, fun _ => rfl, rfl, rfl, rfl⟩

/-- IMMn becomes pending where none is, and is refused where one is. -/
theorem immPrefixOp_outcome (s : State) (p : ImmPrefix) (len : Word) :
    (s.ipfx = none → Completes (immPrefixOp p len s) (OnlyPrefixes (some p) s.tpfx len s)) ∧
    (s.ipfx ≠ none → immPrefixOp p len s = .refused .secondImmPrefix) := by
  rcases immPrefixOp_cases p len s with ⟨first, e⟩ | ⟨second, e⟩
  · have completes := completes_next (onlyPrefixes_withPrefixes s (some p) s.tpfx len)
    exact ⟨fun _ => e ▸ completes, fun second => absurd first second⟩
  · exact ⟨fun first => absurd first second, fun _ => e⟩

/-- TRAPV becomes pending where none is, and is refused where one is. -/
theorem execTrapv_outcome (s : State) :
    (s.tpfx = false → Completes (exec .trapv s) (OnlyPrefixes s.ipfx true 1#64 s)) ∧
    (s.tpfx = true → exec .trapv s = .refused .secondTrapv) := by
  refine ⟨fun first => ?_, fun second => if_pos second⟩
  have runs : exec .trapv s = .next (s.withPrefixes s.ipfx true 1#64) := if_neg (by simp [first])
  rw [runs]
  exact completes_next (onlyPrefixes_withPrefixes ..)

/-- Settles O57. -/
theorem prefixes : Obligations.Prefixes := by
  intro s
  obtain ⟨first, second⟩ := execTrapv_outcome s
  exact ⟨first, second, fun p => immPrefixOp_outcome s (.imm8 p) _, fun p => immPrefixOp_outcome s (.imm16 p) _,
    fun p => immPrefixOp_outcome s (.imm24 p) _, fun p => immPrefixOp_outcome s (.imm32 p) _,
    fun p => immPrefixOp_outcome s (.imm40 p) _, fun p => immPrefixOp_outcome s (.imm48 p) _,
    fun p => immPrefixOp_outcome s (.imm56 p) _, fun p => immPrefixOp_outcome s (.imm64 p) _⟩

/-- What is pending after an IMMn that goes on. -/
theorem pending_of_immPrefixOp {p : ImmPrefix} {len : Word} (h : immPrefixOp p len s = .next t) :
    t.ipfx = some p ∧ t.tpfx = s.tpfx := by
  rcases immPrefixOp_cases p len s with ⟨_, e⟩ | ⟨_, e⟩
  · cases h.symm.trans e
    exact ⟨rfl, rfl⟩
  · nomatch h.symm.trans e

/-- P and field together fill the constant exactly, so that its sign extension is the identity. -/
theorem immConst_imm56 (p : BitVec 56) (f : BitVec 8) : immConst (some (.imm56 p)) f = some (p ++ f) :=
  congrArg some (BitVec.signExtend_eq (p ++ f))

theorem immConst_imm48 (p : BitVec 48) (f : BitVec 16) : immConst (some (.imm48 p)) f = some (p ++ f) :=
  congrArg some (BitVec.signExtend_eq (p ++ f))

theorem immConst_imm64 (p : BitVec 64) : immConst (some (.imm64 p)) (0#0) = some p := by
  have whole : p ++ 0#0 = p := by
    apply BitVec.eq_of_getLsbD_eq
    intro j _
    simp
  exact congrArg some ((BitVec.signExtend_eq (p ++ 0#0)).trans whole)

/-- The addition of a constant to R0 loads it. -/
theorem completes_addI_zero {rt : RegNum} {imm : BitVec 8} {k : Word} (htpfx : t.tpfx = false)
    (hk : immConst t.ipfx imm = some k) : Completes (exec (.addI rt 0#8 imm) t) (OnlyReg rt k (t.pc + 4#64) t) := by
  obtain ⟨_, imm'⟩ := addWraps rt 0#8 0#8 imm t htpfx
  have completes := imm' k hk
  rwa [reg_zero, BitVec.zero_add] at completes

/-- Settles O58. -/
theorem widestPrefixes : Obligations.WidestPrefixes := by
  intro rt p48 p56 p64 imm c s t htpfx
  refine ⟨fun ran => ?imm56, fun ran storable => ?imm48, fun ran => ?imm64⟩
  case imm56 =>
    obtain ⟨pending, keeps⟩ := pending_of_immPrefixOp ran
    have off : t.tpfx = false := keeps.trans htpfx
    refine ⟨completes_addI_zero off (pending ▸ immConst_imm56 p56 imm), ?_⟩
    change noTrapv t (withConst c t _) = _
    rw [noTrapv_of_false _ off]
    unfold withConst
    rw [pending]
    rfl
  case imm48 =>
    obtain ⟨pending, keeps⟩ := pending_of_immPrefixOp ran
    obtain ⟨_, pushc⟩ := pushes 0#8 c t (keeps.trans htpfx) storable
    exact pushc _ (pending ▸ immConst_imm48 p48 c)
  case imm64 =>
    obtain ⟨pending, keeps⟩ := pending_of_immPrefixOp ran
    obtain ⟨_, leax⟩ := loadEffectiveAddress rt 0#8 0#8 0#8 t (keeps.trans htpfx)
    have completes := leax _ (pending ▸ immConst_imm64 p64)
    rw [reg_zero, BitVec.zero_add, BitVec.zero_add] at completes
    refine ⟨completes, ?_⟩
    change withConst imm t _ = _
    unfold withConst
    rw [pending]
    rfl

end

end Sys2Proof.Machine
